-- ==== Sys2Proof/Word.lean ====
section
/-! DEFINITION. The word types of the block (spec/00_scope.md R6, R10): every value is an unsigned
bit vector, bit 0 least significant. -/

namespace Sys2Proof

/-- The byte operand of FEED (30_encoding.md R61): 8 bits, unsigned. -/
abbrev Byte := BitVec 8

/-- A command word `cmd[15:0]` (00_scope.md R6, 30_encoding.md R60). -/
abbrev CmdWord := BitVec 16

/-- A value on the response bus `RSP[63:0]` (10_state.md R28). -/
abbrev RspWord := BitVec 64

end Sys2Proof
end

