-- ==== Sys2Proof/Config.lean ====
section
/-! DEFINITION. What is fixed when a block is instantiated: its VARIANT, the five properties that
follow from it, and the constants common to all variants (spec/00_scope.md R2 to R5). -/

namespace Sys2Proof

/-- The combine operator OP (00_scope.md R2). -/
inductive CombineOp where
  /-- Addition modulo 2^W (41_feed.md R92). -/
  | add
  /-- Bitwise exclusive or (41_feed.md R93). -/
  | xor
  deriving DecidableEq, Repr

/-- The configuration parameter VARIANT (00_scope.md R2, R4). -/
inductive Variant where
  | ma64
  | dso64
  | ma32
  | ma32h
  | mx64
  | mx32
  deriving DecidableEq, Repr

namespace Variant

/-- W, the accumulator width in bits (00_scope.md R2). -/
abbrev width : Variant → Nat
  | ma64 => 64
  | dso64 => 64
  | ma32 => 32
  | ma32h => 32
  | mx64 => 64
  | mx32 => 32

/-- OP (00_scope.md R2). -/
def op : Variant → CombineOp
  | ma64 => .add
  | dso64 => .add
  | ma32 => .add
  | ma32h => .add
  | mx64 => .xor
  | mx32 => .xor

/-- HBF: the output formatter forces bit 31 (00_scope.md R2). -/
def hbf : Variant → Bool
  | ma64 => false
  | dso64 => false
  | ma32 => false
  | ma32h => true
  | mx64 => false
  | mx32 => false

/-- SALT_OK: the variant has INIT_SALT (00_scope.md R2). -/
def saltOk : Variant → Bool
  | ma64 => true
  | dso64 => false
  | ma32 => true
  | ma32h => true
  | mx64 => true
  | mx32 => true

/-- RES32_OK: the variant has RESULT32 (00_scope.md R2). -/
def res32Ok : Variant → Bool
  | ma64 => false
  | dso64 => false
  | ma32 => true
  | ma32h => true
  | mx64 => false
  | mx32 => true

/-- VARIANT_ID, the hardwired field STATUS[10:8] (10_state.md R23). -/
def variantId : Variant → BitVec 3
  | ma64 => 0
  | dso64 => 1
  | ma32 => 2
  | ma32h => 3
  | mx64 => 4
  | mx32 => 5

/-- WIDTH64, the hardwired field STATUS[11] (10_state.md R23). -/
def width64 (v : Variant) : Bool := v.width == 64

/-- The six variants, in the order of 00_scope.md R2. -/
def all : List Variant := [ma64, dso64, ma32, ma32h, mx64, mx32]

end Variant

/-- A combination of the five properties, whether or not a variant has it (00_scope.md R4). -/
structure Params where
  width : Nat
  op : CombineOp
  hbf : Bool
  saltOk : Bool
  res32Ok : Bool
  deriving DecidableEq, Repr

/-- The five properties of a variant as one row of the table of 00_scope.md R2. -/
def Variant.params (v : Variant) : Params :=
  { width := v.width, op := v.op, hbf := v.hbf, saltOk := v.saltOk, res32Ok := v.res32Ok }

/-- The variant with the given properties. Any combination that is no row of 00_scope.md R2 is
refused, as R4 asks (`none`). -/
def Params.variant? (p : Params) : Option Variant :=
  Variant.all.find? (fun v => v.params = p)

/-- SEED = 5381 = 0x1505, at the accumulator's width (00_scope.md R5). -/
def seed (w : Nat) : BitVec w := BitVec.ofNat w 0x1505

/-- HBIT = 0x8000_0000, which the output formatter ORs in (00_scope.md R5). -/
def hbit : BitVec 32 := 0x80000000#32

/-- The shift count of the multiply-by-33 shifter (00_scope.md R5). -/
def shiftCount : Nat := 5

end Sys2Proof
end

