-- ==== Sys2Proof/Syntax.lean ====
section
/-! DEFINITION. The five commands of the block (spec/30_encoding.md R62), one constructor for each
row of spec/opcode_table.json. -/

namespace Sys2Proof

/-- A legal command. The salt of INIT_SALT is no operand here: it is not part of the word and
travels on the SALT bus beside it (30_encoding.md R60, R66), which the machine's state holds. -/
inductive Instr where
  /-- INIT, the source's `new()` (40_construct.md R80). -/
  | init
  /-- INIT_SALT, the source's `new_with_salt(seed)` (40_construct.md R82). -/
  | initSalt
  /-- FEED b, one byte of the source's `feed(bytes)` (41_feed.md R95). -/
  | feed (b : Byte)
  /-- RESULT, the source's `result()` (42_result.md R111). -/
  | result
  /-- RESULT32, the source's `result32()` (42_result.md R113). -/
  | result32
  deriving DecidableEq, Repr

end Sys2Proof
end

