-- ==== Sys2Proof/WellFormed.lean ====
section
/-! DEFINITION. Which commands a variant has (spec/30_encoding.md R63) and which of them need a
constructed accumulator (spec/60_exceptions.md R131, R132). -/

namespace Sys2Proof

/-- The support table of 30_encoding.md R63. -/
def Instr.supported (v : Variant) : Instr → Bool
  | .init => true
  | .initSalt => v.saltOk
  | .feed _ => true
  | .result => true
  | .result32 => v.res32Ok

/-- The commands that read STATE and so need CONSTRUCTED = 1 (60_exceptions.md R132). -/
def Instr.needsAccumulator : Instr → Bool
  | .init => false
  | .initSalt => false
  | .feed _ => true
  | .result => true
  | .result32 => true

/-- An instruction is well formed for a variant when the variant supports it (30_encoding.md R63).
The one encoded operand, FEED's byte, is well formed by its type: all 256 values are legal
(41_feed.md R95). An instruction that is not well formed still decodes; the machine answers it with
the fault UNSUPPORTED_COMMAND. -/
def Instr.wf (v : Variant) (i : Instr) : Bool := i.supported v

end Sys2Proof
end

