-- ==== Sys2Proof/Decode.lean ====
section
/-! DEFINITION. The command encoding (spec/30_encoding.md R60 to R66): the decoder, total on all
16-bit words and rejecting by name, and the encoder. -/

namespace Sys2Proof

/-- The field `op`, `cmd[15:12]` (30_encoding.md R60). -/
def opField (c : CmdWord) : BitVec 4 := c.extractLsb' 12 4

/-- The reserved field `rsv`, `cmd[11:8]` (30_encoding.md R60). -/
def rsvField (c : CmdWord) : BitVec 4 := c.extractLsb' 8 4

/-- The field `imm8`, `cmd[7:0]` (30_encoding.md R60, R61). -/
def immField (c : CmdWord) : Byte := c.extractLsb' 0 8

/-- Which of the three items of 30_encoding.md R64 makes a word illegal. The block reports all
three as ILLEGAL_COMMAND. -/
inductive IllegalReason where
  /-- `rsv` is not 0. -/
  | reservedField
  /-- `op` is 0x0 or 0x6 to 0xF. -/
  | reservedOp
  /-- `imm8` is not 0 although the operation is not FEED. -/
  | strayImmediate
  deriving DecidableEq, Repr

/-- What a word decodes to (30_encoding.md R65). -/
inductive Decoded where
  /-- The word is a command. -/
  | legal (i : Instr)
  /-- The word is ILLEGAL, with the reason. -/
  | illegal (why : IllegalReason)
  deriving DecidableEq, Repr

/-- Why a word whose `rsv` is 0 and which is no command is illegal (30_encoding.md R64). -/
def illegalReason (c : CmdWord) : IllegalReason :=
  if opField c = 0x1 ∨ opField c = 0x2 ∨ opField c = 0x4 ∨ opField c = 0x5 then .strayImmediate
  else .reservedOp

/-- The decode function, in the order of 30_encoding.md R65. It reads the word alone. -/
def decode (c : CmdWord) : Decoded :=
  if rsvField c ≠ 0 then .illegal .reservedField
  else if opField c = 0x1 ∧ immField c = 0 then .legal .init
  else if opField c = 0x2 ∧ immField c = 0 then .legal .initSalt
  else if opField c = 0x3 then .legal (.feed (immField c))
  else if opField c = 0x4 ∧ immField c = 0 then .legal .result
  else if opField c = 0x5 ∧ immField c = 0 then .legal .result32
  else .illegal (illegalReason c)

/-- The one word of each command (30_encoding.md R60, R62): op, then rsv = 0, then imm8. -/
def encode : Instr → CmdWord
  | .init => 0x1#4 ++ 0#4 ++ 0#8
  | .initSalt => 0x2#4 ++ 0#4 ++ 0#8
  | .feed b => 0x3#4 ++ 0#4 ++ b
  | .result => 0x4#4 ++ 0#4 ++ 0#8
  | .result32 => 0x5#4 ++ 0#4 ++ 0#8

/-- The command word whose low `nbits` bits are those of `w`, the bits above being 0: the numbering
of spec/opcode_table.json, where a command is one word with bit 0 least significant. -/
def tableWord (nbits w : Nat) : CmdWord := BitVec.ofNat 16 (w % 2 ^ nbits)

/-- The instruction the decoder reads from a word of the opcode table; no command is longer than
16 bits (30_encoding.md R66). -/
def decodeTableWord (nbits w : Nat) : Option Instr :=
  if nbits ≤ 16 then
    match decode (tableWord nbits w) with
    | .legal i => some i
    | .illegal _ => none
  else none

end Sys2Proof
end

