-- ==== Sys2Proof/Machine/State.lean ====
section
/-! DEFINITION. The state of one block with its ports, the causes of its faults, its responses, and
the state after reset (spec/10_state.md). -/

namespace Sys2Proof.Machine

/-- CAUSE (10_state.md R23, 60_exceptions.md R130). The codes 4 to 15 are never produced and have no
constructor. -/
inductive Cause where
  /-- 0 NONE: no fault since reset. -/
  | none
  /-- 1 ILLEGAL_COMMAND: the word decodes to no command. -/
  | illegalCommand
  /-- 2 UNSUPPORTED_COMMAND: the variant lacks the command. -/
  | unsupportedCommand
  /-- 3 NOT_CONSTRUCTED: the command reads STATE while it holds no value. -/
  | notConstructed
  deriving DecidableEq, Repr

/-- The one response of a command (10_state.md R28). -/
inductive Response where
  /-- NONE: the command completed and returns no value. -/
  | none
  /-- VAL(v): the command completed and v stands on RSP[63:0]. -/
  | val (v : RspWord)
  /-- ERR: the command raised a fault or the block was already faulted; RSP carries no value. -/
  | err
  deriving DecidableEq, Repr

/-- What reaches the block from outside between two of its steps, at accumulator width `w`. -/
inductive HostEvent (w : Nat) where
  /-- A command word on the command port with a value on the SALT bus beside it (10_state.md R26, R27). -/
  | command (cmd : CmdWord) (salt : BitVec w)
  /-- The reset input RST (10_state.md R31). It is no command. -/
  | reset
  /-- Two Hosts mutate the instance at the same time with no arbiter, which the source calls
  undefined (20_memory.md R49; 93_implementation_defined.md U1). -/
  | unarbitratedMutation
  deriving DecidableEq, Repr

/-- One block: its configuration, the state of 10_state.md R33, its input ports, and the model's own
record of what the Host has sent and received. CONSTRUCTED is derived from `acc`
(`State.constructed`), as R33 permits. -/
structure State where
  /-- VARIANT: configuration, which nothing changes (00_scope.md R4; 10_state.md R25). -/
  variant : Variant
  /-- STATE: no value, or a W-bit value (10_state.md R20, R33). -/
  acc : Option (BitVec variant.width)
  /-- FAULT (10_state.md R23, R33). -/
  fault : Bool
  /-- CAUSE (10_state.md R23, R33). -/
  cause : Cause
  /-- FCMD, the word that raised the first fault since reset (10_state.md R24). -/
  fcmd : CmdWord
  /-- The command port: the word of the command being performed, or else of the last one (10_state.md R26). -/
  cmd : CmdWord
  /-- The SALT operand bus beside it (10_state.md R27). -/
  salt : BitVec variant.width
  /-- The model's own: what the Host has yet to deliver, in order of arrival (20_memory.md R47). -/
  pending : List (HostEvent variant.width)
  /-- The model's own: the responses given in the current run, that is since the last reset, oldest
  first (10_state.md R28; 70_reset_and_hazards.md R160). -/
  responses : List Response
  deriving DecidableEq, Repr

/-- Reasons the machine stops with a fault: there are none. What the spec calls a fault is a state
the block goes on from, answering ERR (60_exceptions.md R133, R134), so it is a next state here; and
the block has no stuck state of its own (70_reset_and_hazards.md R159). -/
inductive Fault where
  deriving DecidableEq, Repr

/-- Reasons the machine refuses to say what happens. -/
inductive Refusal where
  /-- Raised by an arm of `exec` for a command that has no meaning yet. No arm does. Safe. -/
  | notModelled (mnemonic : String)
  /-- Raised by `step` when two Hosts mutate the instance at once with no arbiter: the source calls
  this undefined and the spec asks for a refusal (93_implementation_defined.md U1). Safe. -/
  | concurrentMutation
  deriving DecidableEq, Repr

/-- A block of the given variant right after reset (10_state.md R33; 70_reset_and_hazards.md R150).
DESIGN CHOICE (log entry 3): the ports, for which the spec states no value before the first command,
stand at 0. Unsafe only for a claim that reads a port before a command has driven it. -/
def State.resetOf (v : Variant) : State :=
  { variant := v
    acc := Option.none
    fault := false
    cause := .none
    fcmd := 0
    cmd := 0
    salt := 0
    pending := []
    responses := [] }

/-- The machine right after reset. DESIGN CHOICE (log entry 2): the spec takes VARIANT as a
parameter; this one closed machine is the first variant, MA64. Unsafe if read as a statement about
another variant; the statements quantify over every variant. -/
def State.reset : State := State.resetOf .ma64

end Sys2Proof.Machine
end

