-- ==== Sys2Proof/Machine/Operands.lean ====
section
/-! DEFINITION. The operand forms (spec/30_encoding.md R61): the byte of FEED and the salt of
INIT_SALT. No other operation has an operand, and nothing is sign-extended, scaled or shifted. -/

namespace Sys2Proof.Machine

/-- `zext_W(b)`: FEED's byte as a W-bit operand (00_scope.md R11; 30_encoding.md R61). -/
def zextByte (w : Nat) (b : Byte) : BitVec w := b.setWidth w

/-- `SALT[W-1:0]`, unsigned at full width, neither extended nor truncated (30_encoding.md R61). -/
def State.saltOperand (s : State) : BitVec s.variant.width := s.salt

end Sys2Proof.Machine
end

