-- ==== Sys2Proof/Machine/Datapath.lean ====
section
/-! DEFINITION. The datapath: the multiply-by-33 shifter, the combine engine (spec/41_feed.md R90 to
R94) and the output formatter (spec/42_result.md R110 to R113). -/

namespace Sys2Proof.Machine

/-- MUL33_W, a shift and an addition, each modulo 2^W (41_feed.md R90). -/
def mul33 {w : Nat} (s : BitVec w) : BitVec w := (s <<< shiftCount) + s

/-- COMBINE_ADD_W (41_feed.md R92). -/
def combineAdd {w : Nat} (s : BitVec w) (b : Byte) : BitVec w := mul33 s + zextByte w b

/-- COMBINE_XOR_W (41_feed.md R93). -/
def combineXor {w : Nat} (s : BitVec w) (b : Byte) : BitVec w := mul33 s ^^^ zextByte w b

/-- COMBINE, the variant's combine function (41_feed.md R94). -/
def combine (v : Variant) (s : BitVec v.width) (b : Byte) : BitVec v.width :=
  match v.op with
  | .add => combineAdd s b
  | .xor => combineXor s b

/-- FORMAT, the output formatter, the only post-processing there is (42_result.md R110, R112). -/
def format (v : Variant) (s : BitVec v.width) : BitVec v.width :=
  if v.hbf then s ||| hbit.setWidth v.width else s

/-- The value RESULT answers with: `zext_64(FORMAT(STATE))` (42_result.md R111). -/
def resultValue (v : Variant) (s : BitVec v.width) : RspWord := (format v s).setWidth 64

/-- The value RESULT32 answers with: `zext_64(FORMAT(STATE)[31:0])` (42_result.md R113). -/
def result32Value (v : Variant) (s : BitVec v.width) : RspWord :=
  ((format v s).extractLsb' 0 32).setWidth 64

end Sys2Proof.Machine
end

