-- ==== Sys2Proof/Machine/Flags.lean ====
section
/-! DEFINITION. The status output (spec/10_state.md R22 to R24, R30): STATUS and FCMD, which the Host
may sample at any time. Sampling is no command and no step: it is reading these functions of the
state. STATUS holds the block's only flags; no command writes a carry, overflow or zero flag. -/

namespace Sys2Proof.Machine

/-- CONSTRUCTED: 1 exactly when STATE holds a value (10_state.md R22, R33). -/
def State.constructed (s : State) : Bool := s.acc.isSome

/-- The code of a cause in STATUS[7:4] (60_exceptions.md R130). -/
def Cause.code : Cause → BitVec 4
  | .none => 0
  | .illegalCommand => 1
  | .unsupportedCommand => 2
  | .notConstructed => 3

/-- The fields of STATUS that are not hardwired to 0 (10_state.md R23). -/
structure StatusFields where
  constructed : Bool
  fault : Bool
  cause : Cause
  variant : Variant
  deriving DecidableEq, Repr

/-- The layout of STATUS (10_state.md R23), from bit 15 down: reserved [15:12], WIDTH64 [11],
VARIANT_ID [10:8], CAUSE [7:4], reserved [3:2], FAULT [1], CONSTRUCTED [0]. -/
def StatusFields.word (f : StatusFields) : BitVec 16 :=
  0#4 ++ BitVec.ofBool f.variant.width64 ++ f.variant.variantId ++ f.cause.code ++ 0#2
    ++ BitVec.ofBool f.fault ++ BitVec.ofBool f.constructed

/-- The fields of the block's STATUS. -/
def State.statusFields (s : State) : StatusFields :=
  { constructed := s.constructed, fault := s.fault, cause := s.cause, variant := s.variant }

/-- STATUS[15:0] on the status output (10_state.md R23, R30). -/
def State.status (s : State) : BitVec 16 := s.statusFields.word

/-- FCMD[15:0] on the status output (10_state.md R24, R30). -/
def State.fcmdOutput (s : State) : CmdWord := s.fcmd

/-- The cause with a given code; the codes 4 to 15 are refused (93_implementation_defined.md U7). -/
def causeOfCode (c : BitVec 4) : Option Cause :=
  [Cause.none, .illegalCommand, .unsupportedCommand, .notConstructed].find? (fun k => k.code = c)

/-- The variant with a given VARIANT_ID; 6 and 7 are refused (93_implementation_defined.md U7). -/
def variantOfId (i : BitVec 3) : Option Variant :=
  Variant.all.find? (fun v => v.variantId = i)

/-- The fields of a STATUS word whose cause and variant have been read. -/
def fieldsOf (r : BitVec 16) (c : Cause) (v : Variant) : StatusFields :=
  { constructed := r.getLsbD 0, fault := r.getLsbD 1, cause := c, variant := v }

/-- Reading a STATUS word back into its fields. A word that no block drives (a reserved bit set, a
CAUSE or VARIANT_ID code never produced, a WIDTH64 that is not the variant's) is refused, as
93_implementation_defined.md U7 asks. -/
def readStatus (r : BitVec 16) : Option StatusFields :=
  match causeOfCode (r.extractLsb' 4 4), variantOfId (r.extractLsb' 8 3) with
  | some c, some v => if (fieldsOf r c v).word = r then some (fieldsOf r c v) else none
  | _, _ => none

end Sys2Proof.Machine
end

