-- ==== Sys2Proof/Machine/Ops.lean ====
section
/-! DEFINITION. The named operations the commands are made of (spec/00_scope.md R12): writing STATE,
responding, entering a fault, the common checks, reset, and taking a command from the port. -/

namespace Sys2Proof.Machine

/-- `STATE <- v` (00_scope.md R12). CONSTRUCTED, which is derived from STATE, is 1 from then on. -/
def State.writeAcc (s : State) (v : BitVec s.variant.width) : State := { s with acc := some v }

/-- `respond r`: the command's one response (10_state.md R28). -/
def State.respond (s : State) (r : Response) : State := { s with responses := s.responses ++ [r] }

/-- `raise Fault(c)`: fault entry, the whole effect of the faulting command (60_exceptions.md R133).
There is no return from it but reset (R135). -/
def State.raiseFault (s : State) (c : Cause) : State :=
  { s with fault := true, cause := c, fcmd := s.cmd }.respond .err

/-- The check every command passes first: a faulted block answers ERR and changes nothing
(60_exceptions.md R131, R134). -/
def State.unlessFaulted (s : State) (body : State) : State :=
  if s.fault then s.respond .err else body

/-- The checks that a decoded command passes before its body, up to the variant's support of it, in
the order of 60_exceptions.md R131. -/
def State.checked (s : State) (supported : Bool) (body : State) : State :=
  s.unlessFaulted (if supported then body else s.raiseFault .unsupportedCommand)

/-- The last check: a command that reads STATE needs a constructed accumulator, and gets its value
(60_exceptions.md R131, R132). -/
def State.onAccumulator (s : State) (body : BitVec s.variant.width → State) : State :=
  match s.acc with
  | some a => body a
  | none => s.raiseFault .notConstructed

/-- Reset, asserted on RST (70_reset_and_hazards.md R150). It gives no response (10_state.md R31), and
it begins a new run (R160), so the record of the run's responses starts anew. The ports are the
Host's and stay as they are driven. -/
def State.blockReset (s : State) : State :=
  { s with acc := none, fault := false, cause := .none, fcmd := 0, responses := [] }

/-- The next command comes onto the command port and its salt onto the SALT bus (10_state.md R26, R27). -/
def State.accept (s : State) (c : CmdWord) (x : BitVec s.variant.width)
    (rest : List (HostEvent s.variant.width)) : State :=
  { s with cmd := c, salt := x, pending := rest }

end Sys2Proof.Machine
end

