-- ==== Sys2Proof/Machine/Construct.lean ====
section
/-! DEFINITION. The construction commands INIT and INIT_SALT (spec/40_construct.md). Either may meet a
live accumulator, whose value is then lost (R84). -/

namespace Sys2Proof.Machine

/-- INIT (40_construct.md R80). -/
def execInit (s : State) : Host.Outcome State Fault Refusal :=
  .next (s.checked (Instr.init.supported s.variant)
    ((s.writeAcc (seed s.variant.width)).respond .none))

/-- INIT_SALT (40_construct.md R82). Every salt is accepted (R83). -/
def execInitSalt (s : State) : Host.Outcome State Fault Refusal :=
  .next (s.checked (Instr.initSalt.supported s.variant)
    ((s.writeAcc s.saltOperand).respond .none))

end Sys2Proof.Machine
end

