-- ==== Sys2Proof/Machine/Feed.lean ====
section
/-! DEFINITION. The command FEED (spec/41_feed.md R95). -/

namespace Sys2Proof.Machine

/-- FEED b (41_feed.md R95): one combine step on the unformatted STATE. It writes no flag. -/
def execFeed (b : Byte) (s : State) : Host.Outcome State Fault Refusal :=
  .next (s.checked ((Instr.feed b).supported s.variant)
    (s.onAccumulator fun a => (s.writeAcc (combine s.variant a b)).respond .none))

end Sys2Proof.Machine
end

