-- ==== Sys2Proof/Machine/Results.lean ====
section
/-! DEFINITION. The result commands RESULT and RESULT32 (spec/42_result.md R111, R113). Neither writes
STATE (R116). -/

namespace Sys2Proof.Machine

/-- RESULT (42_result.md R111). -/
def execResult (s : State) : Host.Outcome State Fault Refusal :=
  .next (s.checked (Instr.result.supported s.variant)
    (s.onAccumulator fun a => s.respond (.val (resultValue s.variant a))))

/-- RESULT32 (42_result.md R113). -/
def execResult32 (s : State) : Host.Outcome State Fault Refusal :=
  .next (s.checked (Instr.result32.supported s.variant)
    (s.onAccumulator fun a => s.respond (.val (result32Value s.variant a))))

end Sys2Proof.Machine
end

