-- ==== Sys2Proof/Machine/Dispatch.lean ====
section
/-! DEFINITION. One arm for each command (spec/30_encoding.md R62). -/

namespace Sys2Proof.Machine

def exec (i : Instr) (s : State) : Host.Outcome State Fault Refusal :=
  match i with
  | .init => Sys2Proof.Machine.execInit s
  | .initSalt => Sys2Proof.Machine.execInitSalt s
  | .feed b => Sys2Proof.Machine.execFeed b s
  | .result => Sys2Proof.Machine.execResult s
  | .result32 => Sys2Proof.Machine.execResult32 s

end Sys2Proof.Machine
end

