-- ==== Sys2Proof/Machine/Events.lean ====
section
/-! DEFINITION. What the block does with the next thing that reaches it: a command (spec/60_exceptions.md
R131), a reset (spec/70_reset_and_hazards.md R150), or two unarbitrated Hosts (spec/20_memory.md R49). -/

namespace Sys2Proof.Machine

/-- An illegal word: ILLEGAL_COMMAND, unless the block is faulted already (60_exceptions.md R131). -/
def execIllegal (s : State) : Host.Outcome State Fault Refusal :=
  .next (s.unlessFaulted (s.raiseFault .illegalCommand))

/-- `execute(cmd, SALT)` for the word on the command port (60_exceptions.md R131). The check of FAULT,
which comes first there, is the first check inside each branch, so no word escapes it. -/
def performCommand (s : State) : Host.Outcome State Fault Refusal :=
  match decode s.cmd with
  | .legal i => exec i s
  | .illegal _ => execIllegal s

/-- One event, `rest` being what the Host delivers after it (20_memory.md R47). -/
def onEvent (s : State) (e : HostEvent s.variant.width) (rest : List (HostEvent s.variant.width)) :
    Host.Outcome State Fault Refusal :=
  match e with
  | .command c x => performCommand (s.accept c x rest)
  | .reset => .next { s.blockReset with pending := rest }
  | .unarbitratedMutation => .refused .concurrentMutation

/-- With nothing delivered the block waits and does nothing (70_reset_and_hazards.md R152). -/
def onIdle (s : State) : Host.Outcome State Fault Refusal := .next s

/-- The state in which the word of the opcode table is the next command to arrive, with the SALT bus
as it is driven now. -/
def State.deliver (s : State) (c : CmdWord) : State :=
  { s with pending := .command c s.salt :: s.pending }

end Sys2Proof.Machine
end

