-- ==== Sys2Proof/Machine/Step.lean ====
section
/-! DEFINITION. One step of the machine: the Host's next event takes its whole effect
(spec/00_scope.md R9; spec/20_memory.md R47). -/

namespace Sys2Proof.Machine

/-- One step: the oldest event not yet delivered, or nothing. -/
def step (s : State) : Host.Outcome State Fault Refusal :=
  match s.pending with
  | [] => onIdle s
  | e :: rest => onEvent s e rest

/-- The block fetches no command (10_state.md R29): the Host pushes them. Placing a command where the
next step takes it is delivering it first (log entry 5). -/
def State.withFetchWord (s : State) (nbits w : Nat) : State := s.deliver (tableWord nbits w)

end Sys2Proof.Machine
end

