-- ==== Sys2Proof/Machine/Assembler.lean ====
section
/-! DEFINITION. The assembler (spec/30_encoding.md R67, R68): source lines, what is refused, the
pseudo-instructions and their expansions, and the word listing. Text is a list of characters. -/

namespace Sys2Proof.Machine

/-- A command as a listing writes it, its literals any numbers (30_encoding.md R67). -/
inductive AsmCommand where
  | init
  | initSalt (salt : Nat)
  | feed (byte : Nat)
  | result
  | result32
  deriving DecidableEq, Repr

/-- A line of a listing: a command, or a pseudo-instruction (30_encoding.md R68). -/
inductive AsmLine where
  /-- One of the five commands. -/
  | command (c : AsmCommand)
  /-- `FEEDS [b0, b1, ...]`. -/
  | feeds (bytes : List Nat)
  /-- `FEEDS "text"`. -/
  | feedsText (text : List Char)
  /-- `HASH [bytes]`. -/
  | hash (bytes : List Nat)
  /-- `HASH_SALT <salt>, [bytes]`. -/
  | hashSalt (salt : Nat) (bytes : List Nat)
  deriving DecidableEq, Repr

/-- The command a listing's command stands for; a literal that is too large is caught by `accepts`. -/
def AsmCommand.instr : AsmCommand → Instr
  | .init => .init
  | .initSalt _ => .initSalt
  | .feed b => .feed (BitVec.ofNat 8 b)
  | .result => .result
  | .result32 => .result32

/-- The value on the SALT bus beside the word; only INIT_SALT samples it (10_state.md R27), so 0
stands there for the others. -/
def AsmCommand.salt (w : Nat) : AsmCommand → BitVec w
  | .initSalt n => BitVec.ofNat w n
  | .init => 0
  | .feed _ => 0
  | .result => 0
  | .result32 => 0

/-- Whether a command's literals are in range (30_encoding.md R67). -/
def AsmCommand.inRange (v : Variant) : AsmCommand → Bool
  | .init => true
  | .initSalt n => n < 2 ^ v.width
  | .feed b => b < 256
  | .result => true
  | .result32 => true

/-- What the assembler does not refuse (30_encoding.md R67): a literal in range, and a command the
variant can perform. -/
def AsmCommand.accepts (v : Variant) (c : AsmCommand) : Bool := c.inRange v && c.instr.wf v

/-- The word of a command with its SALT value, or a refusal (30_encoding.md R67). -/
def AsmCommand.assemble (v : Variant) (c : AsmCommand) : Option (CmdWord × BitVec v.width) :=
  if c.accepts v then some (encode c.instr, c.salt v.width) else none

/-- The UTF-8 bytes of a character. PRESUMED (log entry 7): the spec names UTF-8 but gives no table
(93_implementation_defined.md GK1). -/
def utf8Bytes (c : Char) : List Nat :=
  let n := c.toNat
  if n < 0x80 then [n]
  else if n < 0x800 then [0xC0 + n / 64, 0x80 + n % 64]
  else if n < 0x10000 then [0xE0 + n / 4096, 0x80 + n / 64 % 64, 0x80 + n % 64]
  else [0xF0 + n / 262144, 0x80 + n / 4096 % 64, 0x80 + n / 64 % 64, 0x80 + n % 64]

/-- `FEEDS [b0, b1, ...]`: one FEED for each byte, in order (30_encoding.md R68). -/
def feedsExpansion (bytes : List Nat) : List AsmCommand := bytes.map AsmCommand.feed

/-- The expansion of a line (30_encoding.md R68). -/
def AsmLine.expand : AsmLine → List AsmCommand
  | .command c => [c]
  | .feeds bytes => feedsExpansion bytes
  | .feedsText text => feedsExpansion (text.flatMap utf8Bytes)
  | .hash bytes => [.init] ++ feedsExpansion bytes ++ [.result]
  | .hashSalt n bytes => [.initSalt n] ++ feedsExpansion bytes ++ [.result]

/-- A listing assembled: its words and SALT values in order, or a refusal if any command is refused. -/
def assemble (v : Variant) (lines : List AsmLine) : Option (List (CmdWord × BitVec v.width)) :=
  (lines.flatMap AsmLine.expand).mapM (AsmCommand.assemble v)

/-- An assembled listing as the Host delivers it. -/
def asEvents {w : Nat} (words : List (CmdWord × BitVec w)) : List (HostEvent w) :=
  words.map fun p => .command p.1 p.2

/-- The value of a digit character, of either case. -/
def digitValue (c : Char) : Option Nat :=
  let n := c.toNat
  if 48 ≤ n ∧ n ≤ 57 then some (n - 48)
  else if 65 ≤ n ∧ n ≤ 70 then some (n - 55)
  else if 97 ≤ n ∧ n ≤ 102 then some (n - 87)
  else none

/-- Reads digits of the given base onto `value`; `started` says that a digit stands before. An
underscore inside a literal only groups digits (00_scope.md R10), so it stands between digits. -/
def readDigits (base value : Nat) (started : Bool) : List Char → Option Nat
  | [] => if started then some value else none
  | c :: rest =>
    if c = '_' then (if started && !rest.isEmpty then readDigits base value started rest else none)
    else match digitValue c with
      | some d => if d < base then readDigits base (base * value + d) true rest else none
      | none => none

/-- A decimal or `0x` hexadecimal literal (30_encoding.md R67). -/
def readLiteral : List Char → Option Nat
  | '0' :: 'x' :: rest => readDigits 16 0 false rest
  | cs => readDigits 10 0 false cs

/-- A line without its comment: a `;` runs to the end of the line (30_encoding.md R67). -/
def dropComment (line : List Char) : List Char := line.takeWhile (· ≠ ';')

/-- Whether a character separates words: a space, a tab or a carriage return. -/
def isBlank (c : Char) : Bool := c = ' ' || c = '\t' || c = '\r'

/-- The words of a line, what stands before the first blank first. -/
def splitWords (line : List Char) : List (List Char) :=
  (line.foldr
    (fun c (acc : List (List Char)) =>
      if isBlank c then [] :: acc
      else match acc with
        | w :: ws => (c :: w) :: ws
        | [] => [[c]])
    [[]]).filter (fun w => !w.isEmpty)

/-- The five mnemonics (30_encoding.md R67). -/
def mnemonicInit : List Char := ['I', 'N', 'I', 'T']
def mnemonicInitSalt : List Char := ['I', 'N', 'I', 'T', '_', 'S', 'A', 'L', 'T']
def mnemonicFeed : List Char := ['F', 'E', 'E', 'D']
def mnemonicResult : List Char := ['R', 'E', 'S', 'U', 'L', 'T']
def mnemonicResult32 : List Char := ['R', 'E', 'S', 'U', 'L', 'T', '3', '2']

/-- The upper-case form of a letter; mnemonics are case-insensitive (30_encoding.md R67). -/
def upperCase (c : Char) : Char :=
  if 97 ≤ c.toNat ∧ c.toNat ≤ 122 then Char.ofNat (c.toNat - 32) else c

/-- A command from the words of a line: `none` is a line the assembler refuses. -/
def readCommand : List (List Char) → Option AsmCommand
  | [m] =>
    if m.map upperCase = mnemonicInit then some .init
    else if m.map upperCase = mnemonicResult then some .result
    else if m.map upperCase = mnemonicResult32 then some .result32
    else none
  | [m, x] =>
    if m.map upperCase = mnemonicInitSalt then (readLiteral x).map .initSalt
    else if m.map upperCase = mnemonicFeed then (readLiteral x).map .feed
    else none
  | _ => none

/-- A line of text: no command (a blank or comment line), one command, or a refusal (`none`). One
command stands on a line (30_encoding.md R67). -/
def readLine (line : List Char) : Option (List AsmCommand) :=
  match splitWords (dropComment line) with
  | [] => some []
  | ws => (readCommand ws).map fun c => [c]

/-- The lines of a text. -/
def splitLines (text : List Char) : List (List Char) :=
  text.foldr
    (fun c acc =>
      if c = '\n' then [] :: acc
      else match acc with
        | l :: ls => (c :: l) :: ls
        | [] => [[c]])
    [[]]

/-- A command listing as text, assembled for a variant (30_encoding.md R67). -/
def assembleText (v : Variant) (text : List Char) : Option (List (CmdWord × BitVec v.width)) :=
  match (splitLines text).mapM readLine with
  | some cs => assemble v (cs.flatten.map .command)
  | none => none

/-- The character of a hexadecimal digit. -/
def hexDigit (d : Nat) : Char := Char.ofNat (if d < 10 then 48 + d else 55 + d)

/-- The low `k` hexadecimal digits of a number, most significant first. -/
def hexDigits : Nat → Nat → List Char
  | 0, _ => []
  | k + 1, n => hexDigits k (n / 16) ++ [hexDigit (n % 16)]

/-- A `0x` literal of `k` digits. -/
def hexLiteral (k n : Nat) : List Char := ['0', 'x'] ++ hexDigits k n

/-- A command as a listing writes it, its literal in hexadecimal at full width. -/
def AsmCommand.text (v : Variant) : AsmCommand → List Char
  | .init => mnemonicInit
  | .initSalt n => mnemonicInitSalt ++ [' '] ++ hexLiteral (v.width / 4) n
  | .feed b => mnemonicFeed ++ [' '] ++ hexLiteral 2 b
  | .result => mnemonicResult
  | .result32 => mnemonicResult32

/-- A line of the word listing, `<hex word>  <mnemonic> <operands>` (30_encoding.md R67). -/
def AsmCommand.listing (v : Variant) (c : AsmCommand) : List Char :=
  hexLiteral 4 (encode c.instr).toNat ++ [' ', ' '] ++ c.text v

end Sys2Proof.Machine
end

