-- ==== Sys2Proof/Machine/Bank.lean ====
section
/-! DEFINITION. Several instances of the block side by side (spec/60_exceptions.md R140;
spec/20_memory.md R53): each has its own state and command port, and nothing is shared. -/

namespace Sys2Proof.Machine

/-- Some instances, each of its own variant and served by a Host of its own. -/
abbrev Bank := List State

/-- Instance `k` takes a step. -/
def Bank.stepAt (bank : Bank) (k : Fin bank.length) : Host.Outcome Bank Fault Refusal :=
  match step bank[k] with
  | .next t => .next (bank.set k t)
  | .fault r => .fault r
  | .refused r => .refused r

end Sys2Proof.Machine
end

