-- ==== Sys2Proof/Safety.lean ====
section
/-! DEFINITION. Runs, their observation and their success (spec/70_reset_and_hazards.md R160), and the
invariants that the claims speak of. -/

namespace Sys2Proof.Machine

/-- The next state of an outcome, if it is one. -/
def nextState? : Host.Outcome State Fault Refusal → Option State
  | .next t => some t
  | .fault _ => none
  | .refused _ => none

/-- Everything a run lets the Host observe (70_reset_and_hazards.md R160), STATE widened to a number. -/
structure Observation where
  responses : List Response
  acc : Option Nat
  constructed : Bool
  status : BitVec 16
  fcmd : CmdWord
  deriving DecidableEq, Repr

/-- The observation of the run that ends in a state (70_reset_and_hazards.md R160). -/
def State.observe (s : State) : Observation :=
  { responses := s.responses
    acc := s.acc.map BitVec.toNat
    constructed := s.constructed
    status := s.status
    fcmd := s.fcmdOutput }

/-- A state at which a run has ended and succeeded: every event has taken effect and FAULT = 0
(70_reset_and_hazards.md R160). A run that ends faulted is never a success (60_exceptions.md R134). -/
abbrev State.runSucceeded (s : State) : Prop := s.pending = [] ∧ s.fault = false

/-- `k` steps, ending at the first refusal (or fault, of which there are none). -/
def runSteps : Nat → State → Host.Outcome State Fault Refusal
  | 0, s => .next s
  | k + 1, s =>
    match step s with
    | .next t => runSteps k t
    | .fault r => .fault r
    | .refused r => .refused r

/-- A run: a block of a variant right after reset performs a finite sequence of commands from one Host
(70_reset_and_hazards.md R160). -/
def runOf (v : Variant) (commands : List (CmdWord × BitVec v.width)) :
    Host.Outcome State Fault Refusal :=
  runSteps commands.length
    { State.resetOf v with pending := commands.map fun p => .command p.1 p.2 }

/-- What a fault's cause says of the word recorded with it (60_exceptions.md R130, R131). -/
def Cause.explains (v : Variant) (constructed : Bool) (w : CmdWord) : Cause → Prop
  | .none => False
  | .illegalCommand => ∃ why, decode w = .illegal why
  | .unsupportedCommand => ∃ i, decode w = .legal i ∧ i.supported v = false
  | .notConstructed =>
      ∃ i, decode w = .legal i ∧ i.supported v = true ∧ i.needsAccumulator = true ∧
        constructed = false

/-- The fault record is sound: without a fault CAUSE and FCMD are 0 (10_state.md R23, R24); with one,
CAUSE is 1, 2 or 3 and FCMD is a word that raises just that fault (60_exceptions.md R130). -/
def State.FaultRecordSound (s : State) : Prop :=
  (s.fault = false → s.cause = .none ∧ s.fcmd = 0) ∧
  (s.fault = true → s.cause.explains s.variant s.constructed s.fcmd)

/-- The block is faulted exactly when a response of the current run was ERR
(70_reset_and_hazards.md R160). -/
def State.ErrExactlyWhenFaulted (s : State) : Prop := s.fault = true ↔ Response.err ∈ s.responses

/-- Once one response of the run is ERR, every later one is (60_exceptions.md R134). -/
def State.ErrorsComeLast (s : State) : Prop :=
  ∃ good n, s.responses = good ++ List.replicate n .err ∧ Response.err ∉ good

/-- What every value the block has answered with looks like: in MA32H bit 31 is set, and in a 32-bit
variant RSP[63:32] is 0 (42_result.md R111, R113, R115). -/
def State.ResponsesFormatted (s : State) : Prop :=
  ∀ x, Response.val x ∈ s.responses →
    (s.variant.hbf = true → x.getLsbD 31 = true) ∧
    (s.variant.width = 32 → x.toNat < 2 ^ 32)

end Sys2Proof.Machine
end

