-- ==== Sys2Proof/Certificates/Slice0/Obligations.lean ====
section
/-! DEFINITION. The statements for the provers. Each cites the rule of spec/ it follows. A next state
is written out as the old one with the fields that change, so every other field is said to be
unchanged; the block has no memory (spec/20_memory.md R40), so no frame speaks of bytes. -/

open Sys2Proof Sys2Proof.Machine

/-! ### Encoding -/

/-- Each command has one word and each legal word one command (30_encoding.md R60, R62, R65). -/
def Obligations.DecodeInvertsEncode : Prop :=
  ∀ (c : CmdWord) (i : Instr), decode c = .legal i ↔ c = encode i

/-- The decode function, case by case on the three fields of the word (30_encoding.md R65). -/
def Obligations.DecodeFollowsTheFields : Prop :=
  ∀ c : CmdWord,
    (rsvField c ≠ 0 → ∃ why, decode c = .illegal why) ∧
    (rsvField c = 0 → opField c = 0x1 → immField c = 0 → decode c = .legal .init) ∧
    (rsvField c = 0 → opField c = 0x2 → immField c = 0 → decode c = .legal .initSalt) ∧
    (rsvField c = 0 → opField c = 0x3 → decode c = .legal (.feed (immField c))) ∧
    (rsvField c = 0 → opField c = 0x4 → immField c = 0 → decode c = .legal .result) ∧
    (rsvField c = 0 → opField c = 0x5 → immField c = 0 → decode c = .legal .result32) ∧
    (rsvField c = 0 → opField c ≠ 0x3 →
      (immField c ≠ 0 ∨ opField c ∉ [0x1#4, 0x2#4, 0x4#4, 0x5#4]) → ∃ why, decode c = .illegal why)

/-- The illegal words are those of 30_encoding.md R64: 65276 of them, against 260 legal ones. Each
raises ILLEGAL_COMMAND, so none is a no-op, and word 0x0000 is one of them. -/
def Obligations.IllegalWordsAreTheReservedOnes : Prop :=
  (∀ c : CmdWord, (∃ why, decode c = .illegal why) ↔
    (opField c = 0x0 ∨ 0x6 ≤ (opField c).toNat ∨ rsvField c ≠ 0 ∨
      (opField c ∈ [0x1#4, 0x2#4, 0x4#4, 0x5#4] ∧ immField c ≠ 0))) ∧
  (∃ legal : List CmdWord, legal.Nodup ∧ legal.length = 260 ∧
    ∀ c, c ∈ legal ↔ ∃ i, decode c = .legal i) ∧
  (∃ illegal : List CmdWord, illegal.Nodup ∧ illegal.length = 65276 ∧
    ∀ c, c ∈ illegal ↔ ∃ why, decode c = .illegal why) ∧
  (∃ why, decode 0x0000 = .illegal why) ∧
  ∀ (s : State) (c : CmdWord) (x : BitVec s.variant.width) (rest : List (HostEvent s.variant.width)),
    s.fault = false → s.pending = .command c x :: rest → (∃ why, decode c = .illegal why) →
    step s = .next { s with
      cmd := c, salt := x, pending := rest, fault := true, cause := .illegalCommand, fcmd := c,
      responses := s.responses ++ [.err] }

/-- The encoding examples (30_encoding.md R69). -/
def Obligations.SampleWordsDecode : Prop :=
  decode 0x1000 = .legal .init ∧ decode 0x2000 = .legal .initSalt ∧
  (AsmCommand.initSalt 5387).assemble .ma64 = some (0x2000, 0x150B) ∧
  decode 0x3045 = .legal (.feed 69) ∧ decode 0x307A = .legal (.feed 122) ∧
  decode 0x3000 = .legal (.feed 0) ∧ decode 0x30FF = .legal (.feed 255) ∧
  decode 0x4000 = .legal .result ∧ decode 0x5000 = .legal .result32 ∧
  ∀ c ∈ [0x0000#16, 0x1001#16, 0x3145#16, 0x6000#16, 0xFFFF#16], ∃ why, decode c = .illegal why

/-- A step runs the decoded command: when the next event is a word that decodes to `i`, the step is
`exec i` once word and salt stand on the ports (10_state.md R26; 60_exceptions.md R131). -/
def Obligations.StepRunsTheDecodedCommand : Prop :=
  ∀ (s : State) (c : CmdWord) (x : BitVec s.variant.width) (rest : List (HostEvent s.variant.width))
    (i : Instr), s.pending = .command c x :: rest → decode c = .legal i →
    step s = exec i { s with cmd := c, salt := x, pending := rest }

/-! ### Variants -/

/-- VARIANT is one of six rows of properties, every other combination is refused, and no step changes
it (00_scope.md R4, with the table of R2). -/
def Obligations.VariantIsOneOfSixAndFixed : Prop :=
  Variant.ma64.params = ⟨64, .add, false, true, false⟩ ∧
  Variant.dso64.params = ⟨64, .add, false, false, false⟩ ∧
  Variant.ma32.params = ⟨32, .add, false, true, true⟩ ∧
  Variant.ma32h.params = ⟨32, .add, true, true, true⟩ ∧
  Variant.mx64.params = ⟨64, .xor, false, true, false⟩ ∧
  Variant.mx32.params = ⟨32, .xor, false, true, true⟩ ∧
  (∀ v : Variant, v.params.variant? = some v) ∧
  (∀ (p : Params) (v : Variant), p.variant? = some v → p = v.params) ∧
  ∀ s t : State, step s = .next t → t.variant = s.variant

/-- Which variant supports which command, and that a decoded command the variant lacks raises
UNSUPPORTED_COMMAND (30_encoding.md R63). -/
def Obligations.SupportTableGovernsExecution : Prop :=
  (∀ v : Variant, Instr.init.supported v = true ∧ (∀ b, (Instr.feed b).supported v = true) ∧
    Instr.result.supported v = true ∧
    (Instr.initSalt.supported v = true ↔ v.saltOk = true) ∧
    (Instr.initSalt.supported v = true ↔ v ∈ [.ma64, .ma32, .ma32h, .mx64, .mx32]) ∧
    (Instr.result32.supported v = true ↔ v.res32Ok = true) ∧
    (Instr.result32.supported v = true ↔ v ∈ [.ma32, .ma32h, .mx32])) ∧
  ∀ (i : Instr) (s : State), s.fault = false → i.supported s.variant = false →
    exec i s = .next { s with
      fault := true, cause := .unsupportedCommand, fcmd := s.cmd, responses := s.responses ++ [.err] }

/-- DSO64 lacks INIT_SALT and does, with every other word and the same state, what MA64 does
(00_scope.md R3). -/
def Obligations.DefaultSaltOnlyMatchesMa64 : Prop :=
  Instr.initSalt.supported .dso64 = false ∧
  ∀ (a : Option (BitVec 64)) (f : Bool) (k : Cause) (w c : CmdWord) (x : BitVec 64)
    (p : List (HostEvent 64)) (r : List Response), decode c ≠ .legal .initSalt →
    ∃ (a' : Option (BitVec 64)) (f' : Bool) (k' : Cause) (w' : CmdWord) (r' : List Response),
      performCommand { variant := .dso64, acc := a, fault := f, cause := k, fcmd := w, cmd := c,
                       salt := x, pending := p, responses := r } =
        .next { variant := .dso64, acc := a', fault := f', cause := k', fcmd := w', cmd := c,
                salt := x, pending := p, responses := r' } ∧
      performCommand { variant := .ma64, acc := a, fault := f, cause := k, fcmd := w, cmd := c,
                       salt := x, pending := p, responses := r } =
        .next { variant := .ma64, acc := a', fault := f', cause := k', fcmd := w', cmd := c,
                salt := x, pending := p, responses := r' }

/-! ### Datapath -/

/-- The shifter multiplies by 33 modulo 2^W, with the corner values (41_feed.md R91). -/
def Obligations.ShifterMultipliesBy33 : Prop :=
  (∀ (w : Nat) (s : BitVec w), (mul33 s).toNat = s.toNat * 33 % 2 ^ w) ∧
  ∀ w : Nat, w = 32 ∨ w = 64 →
    mul33 (0#w) = 0#w ∧ mul33 (1#w) = 0x21#w ∧ mul33 (0x1505#w) = 0x2B5A5#w ∧
    mul33 (BitVec.allOnes w) = BitVec.ofNat w (2 ^ w - 33) ∧
    mul33 (BitVec.ofNat w (2 ^ (w - 1))) = BitVec.ofNat w (2 ^ (w - 1)) ∧
    mul33 (BitVec.ofNat w (2 ^ (w - 5))) = BitVec.ofNat w (2 ^ (w - 5))

/-- The additive combine adds the unsigned byte modulo 2^W, and the order of the two additions does
not matter; it is the combine of MA64, DSO64, MA32 and MA32H (41_feed.md R92). -/
def Obligations.AdditiveCombineWraps : Prop :=
  (∀ v : Variant, v.op = .add ↔ v ∈ [.ma64, .dso64, .ma32, .ma32h]) ∧
  ∀ (v : Variant) (s : BitVec v.width) (b : Byte), v.op = .add →
    combine v s b = mul33 s + b.setWidth v.width ∧
    combine v s b = (s <<< 5) + (s + b.setWidth v.width) ∧
    (combine v s b).toNat = (s.toNat * 33 + b.toNat) % 2 ^ v.width

/-- The XOR combine reduces the product modulo 2^W first and then changes only bits [7:0]; it is the
combine of MX64 and MX32 (41_feed.md R93). -/
def Obligations.XorCombineChangesTheLowByte : Prop :=
  (∀ v : Variant, v.op = .xor ↔ v ∈ [.mx64, .mx32]) ∧
  ∀ (v : Variant) (s : BitVec v.width) (b : Byte), v.op = .xor →
    combine v s b = BitVec.ofNat v.width (s.toNat * 33) ^^^ b.setWidth v.width ∧
    (∀ n, n < 8 → (combine v s b).getLsbD n = ((mul33 s).getLsbD n ^^ b.getLsbD n)) ∧
    (∀ n, 8 ≤ n → (combine v s b).getLsbD n = (mul33 s).getLsbD n)

/-- Accumulators of one operator that agree in bits [31:0] still do after the same bytes, and a 32-bit
one fed from the seed holds the 64-bit one's value modulo 2^32 (41_feed.md R99). -/
def Obligations.LowBitsAgreeAcrossWidths : Prop :=
  (∀ (v u : Variant) (s : BitVec v.width) (t : BitVec u.width) (bytes : List Byte), v.op = u.op →
    s.setWidth 32 = t.setWidth 32 →
    (bytes.foldl (combine v) s).setWidth 32 = (bytes.foldl (combine u) t).setWidth 32) ∧
  (∀ bytes : List Byte, (bytes.foldl (combine .ma32) (seed 32)).toNat =
    (bytes.foldl (combine .ma64) (seed 64)).toNat % 2 ^ 32) ∧
  (∀ bytes : List Byte, (bytes.foldl (combine .mx32) (seed 32)).toNat =
    (bytes.foldl (combine .mx64) (seed 64)).toNat % 2 ^ 32)

/-- The output formatter sets bit 31 and nothing else in MA32H and is the identity in every other
variant. It never writes STATE, so the FEED after a result uses the unforced value
(42_result.md R110). -/
def Obligations.OutputFormatterForcesBit31 : Prop :=
  (∀ s : BitVec 32, format .ma32h s = s ||| 0x80000000#32) ∧
  format .ma32h 0#32 = 0x80000000#32 ∧
  (∀ s : BitVec 32, s.getLsbD 31 = true → format .ma32h s = s) ∧
  (∀ (v : Variant) (s : BitVec v.width), v ≠ .ma32h → format v s = s) ∧
  ∀ (s : State) (a : BitVec s.variant.width) (b : Byte), s.fault = false → s.acc = some a →
    ∃ x : RspWord,
      exec .result s = .next { s with responses := s.responses ++ [.val x] } ∧
      exec (.feed b) { s with responses := s.responses ++ [.val x] } =
        .next { s with
          acc := some (combine s.variant a b), responses := s.responses ++ [.val x] ++ [.none] }

/-! ### The five commands -/

/-- INIT (40_construct.md R80): it completes in every variant on an unfaulted block, whatever STATE
held; a second INIT leaves the same STATE. On a faulted block it answers ERR. Its only word is 0x1000. -/
def Obligations.InitConstructsWithSeed : Prop :=
  (∀ s : State, s.fault = false →
    exec .init s = .next { s with
      acc := some 5381, responses := s.responses ++ [.none] } ∧
    exec .init { s with acc := some 5381, responses := s.responses ++ [.none] } =
      .next { s with acc := some 5381, responses := s.responses ++ [.none] ++ [.none] }) ∧
  (∀ s : State, s.fault = true → exec .init s = .next { s with responses := s.responses ++ [.err] }) ∧
  (∀ v : Variant, Instr.init.supported v = true) ∧
  (∀ c : CmdWord, decode c = .legal .init ↔ c = 0x1000) ∧
  (∀ c : CmdWord, opField c = 0x1 → c ≠ 0x1000 → ∃ why, decode c = .illegal why)

/-- RESULT right after INIT gives the seed, with bit 31 forced in MA32H (40_construct.md R81). -/
def Obligations.ResultAfterInitIsTheSeed : Prop :=
  ∀ s : State, s.fault = false →
    ∃ t : State, exec .init s = .next t ∧
      t = { s with acc := some 0x1505, responses := s.responses ++ [.none] } ∧
      exec .result t = .next { t with
        responses := t.responses ++
          [.val (if s.variant = .ma32h then 0x80001505 else 0x1505)] }

/-- INIT_SALT (40_construct.md R82, R83): it completes in every variant but DSO64, for every salt, and
the salt goes into STATE as it is. On DSO64 it raises UNSUPPORTED_COMMAND, and on a faulted block it
answers ERR. Its only word is 0x2000. The last clause is the rule's example. -/
def Obligations.InitSaltConstructsWithSalt : Prop :=
  (∀ (s : State) (x : BitVec s.variant.width), s.fault = false → s.variant ≠ .dso64 →
    exec .initSalt { s with salt := x } = .next { s with
      salt := x, acc := some x, responses := s.responses ++ [.none] }) ∧
  (∀ s : State, s.fault = false → s.variant ≠ .dso64 → s.salt = 5381 →
    exec .initSalt s = exec .init s) ∧
  (∀ s : State, s.fault = false → s.variant ≠ .dso64 → s.salt = 0 →
    ∃ t : State, exec .initSalt s = .next t ∧
      exec (.feed 0) t = .next { s with
        acc := some 0, responses := s.responses ++ [.none] ++ [.none] }) ∧
  (∀ s : State, s.fault = false → s.variant = .dso64 →
    exec .initSalt s = .next { s with
      fault := true, cause := .unsupportedCommand, fcmd := s.cmd,
      responses := s.responses ++ [.err] }) ∧
  (∀ s : State, s.fault = true →
    exec .initSalt s = .next { s with responses := s.responses ++ [.err] }) ∧
  (∀ c : CmdWord, decode c = .legal .initSalt ↔ c = 0x2000) ∧
  (∀ c : CmdWord, opField c = 0x2 → c ≠ 0x2000 → ∃ why, decode c = .illegal why) ∧
  resultValue .ma64 (combine .ma64 (combine .ma64 5387 70) 89) = 5868842

/-- FEED (41_feed.md R95): it completes in every variant on an unfaulted block that holds a value, for
every byte, and writes nothing but STATE. Before a construction it raises NOT_CONSTRUCTED, and on a
faulted block it answers ERR. Its words are 0x3000 to 0x30FF. The last clauses are the rule's corner
cases and its example. -/
def Obligations.FeedCombinesOneByte : Prop :=
  (∀ (s : State) (a : BitVec s.variant.width) (b : Byte), s.fault = false → s.acc = some a →
    exec (.feed b) s = .next { s with
      acc := some (combine s.variant a b), responses := s.responses ++ [.none] }) ∧
  (∀ (s : State) (b : Byte), s.fault = false → s.acc = none →
    exec (.feed b) s = .next { s with
      fault := true, cause := .notConstructed, fcmd := s.cmd,
      responses := s.responses ++ [.err] }) ∧
  (∀ (s : State) (b : Byte), s.fault = true →
    exec (.feed b) s = .next { s with responses := s.responses ++ [.err] }) ∧
  (∀ (v : Variant) (b : Byte), (Instr.feed b).supported v = true) ∧
  (∀ (c : CmdWord) (b : Byte), decode c = .legal (.feed b) ↔ c = 0x3000#16 + b.setWidth 16) ∧
  (∀ c : CmdWord, rsvField c ≠ 0 → ∃ why, decode c = .illegal why) ∧
  (∀ (v : Variant) (s : BitVec v.width), combine v s 0 = mul33 s) ∧
  (∀ v : Variant, combine v 0 0 = 0) ∧
  (∀ v : Variant, v.op = .add →
    combine v (BitVec.allOnes v.width) 0xFF = 0xDE ∧ combine v (BitVec.allOnes v.width) 33 = 0) ∧
  (∀ v : Variant, v.op = .xor →
    combine v (BitVec.allOnes v.width) 0xFF = BitVec.ofNat v.width (2 ^ v.width - 224)) ∧
  combine .ma64 5381 69 = 177642 ∧ combine .mx64 5381 69 = 177632

/-- RESULT (42_result.md R111): it completes in every variant on an unfaulted block that holds a value,
answering STATE formatted and zero-extended to 64 bits, and changes no state. Before a construction it
raises NOT_CONSTRUCTED, and on a faulted block it answers ERR. Its only word is 0x4000. The last
clause is the rule's example. -/
def Obligations.ResultReturnsFormattedAccumulator : Prop :=
  (∀ (s : State) (a : BitVec s.variant.width), s.fault = false → s.acc = some a →
    exec .result s = .next { s with
      responses := s.responses ++ [.val ((format s.variant a).setWidth 64)] } ∧
    ((format s.variant a).setWidth 64).toNat = (format s.variant a).toNat ∧
    (s.variant.width = 32 → ((format s.variant a).setWidth 64).toNat < 2 ^ 32) ∧
    (s.variant = .ma32h → 0x80000000 ≤ ((format s.variant a).setWidth 64).toNat)) ∧
  (∀ s : State, s.fault = false → s.acc = none →
    exec .result s = .next { s with
      fault := true, cause := .notConstructed, fcmd := s.cmd,
      responses := s.responses ++ [.err] }) ∧
  (∀ s : State, s.fault = true →
    exec .result s = .next { s with responses := s.responses ++ [.err] }) ∧
  (∀ v : Variant, Instr.result.supported v = true) ∧
  (∀ c : CmdWord, decode c = .legal .result ↔ c = 0x4000) ∧
  (∀ c : CmdWord, opField c = 0x4 → c ≠ 0x4000 → ∃ why, decode c = .illegal why) ∧
  resultValue .ma64 (combine .ma64 (combine .ma64 5381 69) 122) = 5862308

/-- RESULT32 (42_result.md R113): in MA32, MA32H and MX32 it completes on an unfaulted block that holds a
value, answering FORMAT(STATE)[31:0] zero-extended, and changes no state. In the 64-bit variants it
raises UNSUPPORTED_COMMAND, before a construction NOT_CONSTRUCTED, and on a faulted block it answers
ERR. Its only word is 0x5000. The last clause is the rule's example. -/
def Obligations.Result32ReturnsNativeHash : Prop :=
  (∀ (s : State) (a : BitVec s.variant.width), s.fault = false →
    s.variant ∈ [.ma32, .ma32h, .mx32] → s.acc = some a →
    ∃ x : RspWord,
      exec .result32 s = .next { s with responses := s.responses ++ [.val x] } ∧
      x = ((format s.variant a).setWidth 32).setWidth 64 ∧
      (s.variant = .ma32h → x.getLsbD 31 = true) ∧
      (s.variant ≠ .ma32h → x.toNat = a.toNat)) ∧
  (∀ s : State, s.fault = false → s.variant ∈ [.ma64, .dso64, .mx64] →
    exec .result32 s = .next { s with
      fault := true, cause := .unsupportedCommand, fcmd := s.cmd,
      responses := s.responses ++ [.err] }) ∧
  (∀ s : State, s.fault = false → s.variant ∈ [.ma32, .ma32h, .mx32] → s.acc = none →
    exec .result32 s = .next { s with
      fault := true, cause := .notConstructed, fcmd := s.cmd,
      responses := s.responses ++ [.err] }) ∧
  (∀ s : State, s.fault = true →
    exec .result32 s = .next { s with responses := s.responses ++ [.err] }) ∧
  (∀ c : CmdWord, decode c = .legal .result32 ↔ c = 0x5000) ∧
  (∀ c : CmdWord, opField c = 0x5 → c ≠ 0x5000 → ∃ why, decode c = .illegal why) ∧
  result32Value .ma32h (combine .ma32h (combine .ma32h 5381 69) 122) = 2153345956

/-- Where RESULT32 exists, exec of it and exec of RESULT are one outcome in every state. 42_result.md R114
gives only that the two response values are equal (Result32AnswersTheValueOfResult); this says more, and
for a fault it is the model's choice: exec records whatever word is on the command port (log entry 15), so
on an unfaulted block with no value both record that one word, where a step, which puts the command's own
word on the port first, records 0x4000 for RESULT and 0x5000 for RESULT32 (60_exceptions.md R133). -/
def Obligations.Result32AgreesWithResult : Prop :=
  ∀ s : State, s.variant.res32Ok = true → exec .result32 s = exec .result s

/-- Where RESULT32 exists, it and RESULT issued from the same state, on an unfaulted block that holds a
value, answer the same VAL, and each leaves everything but the ports and the record of responses as it was
(42_result.md R114). -/
def Obligations.Result32AnswersTheValueOfResult : Prop :=
  ∀ (s : State) (a x : BitVec s.variant.width) (rest : List (HostEvent s.variant.width)),
    s.variant.res32Ok = true → s.fault = false → s.acc = some a →
    ∃ v : RspWord,
      step { s with pending := .command 0x4000 x :: rest } = .next { s with
        cmd := 0x4000, salt := x, pending := rest, responses := s.responses ++ [.val v] } ∧
      step { s with pending := .command 0x5000 x :: rest } = .next { s with
        cmd := 0x5000, salt := x, pending := rest, responses := s.responses ++ [.val v] }

/-- Every value MA32H answers RESULT or RESULT32 with is non-zero and has bit 31 set; any other variant
answers RESULT with 0 when STATE is 0 (42_result.md R115). -/
def Obligations.ForcedResultIsNeverZero : Prop :=
  (∀ (i : Instr) (s t : State) (x : RspWord), s.variant = .ma32h → i = .result ∨ i = .result32 →
    exec i s = .next t → t.responses = s.responses ++ [.val x] → x ≠ 0 ∧ x.getLsbD 31 = true) ∧
  ∀ s : State, s.variant ≠ .ma32h → s.fault = false → s.acc = some 0 →
    exec .result s = .next { s with responses := s.responses ++ [.val 0] }

/-- RESULT and RESULT32 that raise no fault change nothing but the record of responses, and that record
changes neither the effect nor the response of any later command (42_result.md R116). -/
def Obligations.ResultsDoNotMutate : Prop :=
  (∀ (i : Instr) (s t : State), i = .result ∨ i = .result32 → exec i s = .next t →
    t.fault = s.fault → ∃ r, t = { s with responses := s.responses ++ [r] }) ∧
  ∀ (j : Instr) (s : State) (extra : List Response),
    ∃ (a : Option (BitVec s.variant.width)) (f : Bool) (k : Cause) (w : CmdWord) (r : Response),
      exec j s = .next { s with
        acc := a, fault := f, cause := k, fcmd := w, responses := s.responses ++ [r] } ∧
      exec j { s with responses := s.responses ++ extra } = .next { s with
        acc := a, fault := f, cause := k, fcmd := w, responses := s.responses ++ extra ++ [r] }

/-- Only INIT_SALT samples the SALT bus: its value has no effect on any other command, nor on an
illegal word; and INIT_SALT refuses no salt (10_state.md R27). -/
def Obligations.SaltIsSampledOnlyByInitSalt : Prop :=
  (∀ (i : Instr) (s : State) (x : BitVec s.variant.width), i ≠ .initSalt →
    ∃ (a : Option (BitVec s.variant.width)) (f : Bool) (k : Cause) (w : CmdWord) (r : List Response),
      exec i s = .next { s with acc := a, fault := f, cause := k, fcmd := w, responses := r } ∧
      exec i { s with salt := x } =
        .next { s with salt := x, acc := a, fault := f, cause := k, fcmd := w, responses := r }) ∧
  (∀ (s : State) (c : CmdWord) (x y : BitVec s.variant.width)
      (rest : List (HostEvent s.variant.width)), (∃ why, decode c = .illegal why) →
    ∃ (f : Bool) (k : Cause) (w : CmdWord) (r : List Response),
      step { s with pending := .command c x :: rest } = .next { s with
        cmd := c, salt := x, pending := rest, fault := f, cause := k, fcmd := w, responses := r } ∧
      step { s with pending := .command c y :: rest } = .next { s with
        cmd := c, salt := y, pending := rest, fault := f, cause := k, fcmd := w, responses := r }) ∧
  ∀ (s : State) (x : BitVec s.variant.width), s.fault = false → s.variant.saltOk = true →
    exec .initSalt { s with salt := x } = .next { s with
      salt := x, acc := some x, responses := s.responses ++ [.none] }

/-! ### Frames and lifetimes -/

/-- The frame of all five commands: each completes, leaves VARIANT, the ports and what is yet to come as
they are, adds one response, and writes STATE only as INIT, INIT_SALT or FEED do; a fault record
changes only by a fault entry with the word on the port (10_state.md R20, R21; 60_exceptions.md R133). -/
def Obligations.CommandsChangeOnlyWhatTheirRulesName : Prop :=
  ∀ (i : Instr) (s : State),
    ∃ (a : Option (BitVec s.variant.width)) (f : Bool) (k : Cause) (w : CmdWord) (r : Response),
      exec i s = .next { s with
        acc := a, fault := f, cause := k, fcmd := w, responses := s.responses ++ [r] } ∧
      (a = s.acc ∨ (i = .init ∧ a = some 5381) ∨ (i = .initSalt ∧ a = some s.salt) ∨
        ∃ b x, i = .feed b ∧ s.acc = some x ∧ a = some (combine s.variant x b)) ∧
      ((f = s.fault ∧ k = s.cause ∧ w = s.fcmd) ∨
        (s.fault = false ∧ f = true ∧ k ≠ .none ∧ w = s.cmd ∧ a = s.acc ∧ r = .err))

/-- CONSTRUCTED (10_state.md R22): it says whether STATE holds a value, the Host sees it as STATUS[0],
only INIT and INIT_SALT set it, no command clears it, a step clears it only by a reset and a reset
always does, and FEED, RESULT and RESULT32 read it. -/
def Obligations.ConstructedSetOnlyByConstruction : Prop :=
  (∀ s : State, (s.constructed = true ↔ ∃ a, s.acc = some a) ∧
    s.status.getLsbD 0 = s.constructed) ∧
  (∀ (i : Instr) (s t : State), exec i s = .next t → s.constructed = true → t.constructed = true) ∧
  (∀ (i : Instr) (s t : State), exec i s = .next t → s.constructed = false → t.constructed = true →
    i = .init ∨ i = .initSalt) ∧
  (∀ (i : Instr) (s t : State), i = .init ∨ i = .initSalt → exec i s = .next t → s.fault = false →
    i.supported s.variant = true → t.constructed = true) ∧
  (∀ s t : State, step s = .next t → s.constructed = true → t.constructed = false →
    ∃ rest, s.pending = .reset :: rest) ∧
  (∀ (s t : State) (rest : List (HostEvent s.variant.width)), s.pending = .reset :: rest →
    step s = .next t → t.constructed = false) ∧
  ∀ (i : Instr) (s : State), i = .result ∨ i = .result32 ∨ (∃ b, i = .feed b) → s.fault = false →
    i.supported s.variant = true →
    ∃ t, exec i s = .next t ∧ (t.fault = true ↔ s.constructed = false)

/-- INIT or INIT_SALT on a live accumulator constructs a new one, and nothing of the old value remains
(40_construct.md R84). -/
def Obligations.ReconstructionDiscardsTheOldValue : Prop :=
  ∀ (s : State) (old : BitVec s.variant.width), s.fault = false →
    exec .init { s with acc := some old } = exec .init { s with acc := none } ∧
    (s.variant.saltOk = true →
      exec .initSalt { s with acc := some old } = exec .initSalt { s with acc := none })

/-- RESULT, then INIT_SALT with the value's low W bits, rebuilds STATE where SALT_OK = 1 and HBF = 0; in
MA32H, RESULT cannot tell two values that differ in bit 31 alone (20_memory.md R52). -/
def Obligations.ResultRebuildsTheAccumulator : Prop :=
  (∀ (s : State) (a : BitVec s.variant.width), s.fault = false → s.acc = some a →
    s.variant.saltOk = true → s.variant.hbf = false →
    ∃ x : RspWord,
      exec .result s = .next { s with responses := s.responses ++ [.val x] } ∧
      ∀ old : Option (BitVec s.variant.width),
        exec .initSalt { s with acc := old, salt := x.setWidth s.variant.width } = .next { s with
          acc := some a, salt := x.setWidth s.variant.width, responses := s.responses ++ [.none] }) ∧
  ∀ a : BitVec 32, resultValue .ma32h a = resultValue .ma32h (a ^^^ 0x80000000#32)

/-! ### Checks and faults -/

/-- The order of checks (60_exceptions.md R131): FAULT, then decode, then support, then construction; the
first that applies decides, and only a command that passes them all runs its body, here given by what
it does to STATE and what it answers. -/
def Obligations.ChecksRunInOrder : Prop :=
  ∀ (s : State) (c : CmdWord) (x : BitVec s.variant.width) (rest : List (HostEvent s.variant.width)),
    s.pending = .command c x :: rest →
    (s.fault = true →
      step s = .next { s with
        cmd := c, salt := x, pending := rest, responses := s.responses ++ [.err] }) ∧
    (s.fault = false → (∃ why, decode c = .illegal why) →
      step s = .next { s with
        cmd := c, salt := x, pending := rest, fault := true, cause := .illegalCommand, fcmd := c,
        responses := s.responses ++ [.err] }) ∧
    (∀ i, s.fault = false → decode c = .legal i → i.supported s.variant = false →
      step s = .next { s with
        cmd := c, salt := x, pending := rest, fault := true, cause := .unsupportedCommand, fcmd := c,
        responses := s.responses ++ [.err] }) ∧
    (∀ i, s.fault = false → decode c = .legal i → i.supported s.variant = true →
      i.needsAccumulator = true → s.acc = none →
      step s = .next { s with
        cmd := c, salt := x, pending := rest, fault := true, cause := .notConstructed, fcmd := c,
        responses := s.responses ++ [.err] }) ∧
    (∀ i, s.fault = false → decode c = .legal i → i.supported s.variant = true →
      (i.needsAccumulator = true → s.acc ≠ none) →
      ∃ (a : BitVec s.variant.width) (r : Response), r ≠ .err ∧
        step s = .next { s with
          cmd := c, salt := x, pending := rest, acc := some a, responses := s.responses ++ [r] } ∧
        (i = .init → a = 5381 ∧ r = .none) ∧
        (i = .initSalt → a = x ∧ r = .none) ∧
        (∀ b, i = .feed b → r = .none ∧
          ∀ old, s.acc = some old → a = combine s.variant old b) ∧
        (i = .result → s.acc = some a ∧ r = .val ((format s.variant a).setWidth 64)) ∧
        (i = .result32 → s.acc = some a ∧
          r = .val (((format s.variant a).setWidth 32).setWidth 64)))

/-- FEED, RESULT and RESULT32, where supported, raise NOT_CONSTRUCTED while STATE holds no value, and
STATE then still holds none; nothing but INIT or INIT_SALT gives STATE its first value
(60_exceptions.md R132). -/
def Obligations.ReadsNeedAConstruction : Prop :=
  (∀ (i : Instr) (s : State), i = .result ∨ i = .result32 ∨ (∃ b, i = .feed b) →
    i.supported s.variant = true → s.fault = false → s.acc = none →
    exec i s = .next { s with
      fault := true, cause := .notConstructed, fcmd := s.cmd,
      responses := s.responses ++ [.err] }) ∧
  (∀ v : Variant, (State.resetOf v).acc = none) ∧
  ∀ s t : State, step s = .next t → s.acc = none → t.acc ≠ none →
    ∃ c x rest, s.pending = .command c x :: rest ∧
      (decode c = .legal .init ∨ decode c = .legal .initSalt)

/-- A step that takes the block from unfaulted to faulted performs a command, and its whole effect on the
block is fault entry: FAULT, CAUSE and FCMD are written and the response is ERR, while STATE keeps its
value; the Host sees it also in STATUS.FAULT (60_exceptions.md R133). -/
def Obligations.FaultEntryIsPrecise : Prop :=
  ∀ s t : State, step s = .next t → s.fault = false → t.fault = true →
    ∃ c x rest k, s.pending = .command c x :: rest ∧ k ≠ Cause.none ∧
      t = { s with
        cmd := c, salt := x, pending := rest, fault := true, cause := k, fcmd := c,
        responses := s.responses ++ [.err] } ∧
      t.status.getLsbD 1 = true

/-- While FAULT = 1 every word, legal or not, is answered ERR and changes nothing of the block, and a run
that ends so is no success (60_exceptions.md R134). -/
def Obligations.FaultedBlockOnlyAnswersErr : Prop :=
  (∀ (s : State) (c : CmdWord) (x : BitVec s.variant.width) (rest : List (HostEvent s.variant.width)),
    s.fault = true → s.pending = .command c x :: rest →
    step s = .next { s with
      cmd := c, salt := x, pending := rest, responses := s.responses ++ [.err] }) ∧
  (∀ (i : Instr) (s : State), s.fault = true →
    exec i s = .next { s with responses := s.responses ++ [.err] }) ∧
  ∀ s : State, s.fault = true → ¬ s.runSucceeded

/-- No command clears FAULT; a step that does is a reset, and a reset always does
(60_exceptions.md R135). -/
def Obligations.OnlyResetClearsAFault : Prop :=
  (∀ s t : State, step s = .next t → s.fault = true → t.fault = false →
    ∃ rest, s.pending = .reset :: rest) ∧
  (∀ (i : Instr) (s t : State), exec i s = .next t → s.fault = true → t.fault = true) ∧
  ∀ (s : State) (rest : List (HostEvent s.variant.width)), s.pending = .reset :: rest →
    ∃ t, step s = .next t ∧ t.fault = false

/-- A command that the variant supports, correctly encoded, and issued after a construction unless it is
one itself, raises no fault, for every salt, byte and value of STATE (60_exceptions.md R136). -/
def Obligations.ContractCommandsNeverFault : Prop :=
  ∀ (s : State) (i : Instr) (x : BitVec s.variant.width) (rest : List (HostEvent s.variant.width)),
    s.fault = false → i.supported s.variant = true →
    (i.needsAccumulator = true → s.constructed = true) →
    s.pending = .command (encode i) x :: rest →
    ∃ t r, step s = .next t ∧ t.fault = false ∧ t.cause = s.cause ∧ t.fcmd = s.fcmd ∧
      t.constructed = true ∧ t.responses = s.responses ++ [r] ∧ r ≠ .err

/-- Every command, illegal words and commands to a faulted block included, ends in one step with one
response, and the machine has no stuck state (70_reset_and_hazards.md R159). That every state but before
unarbitrated mutation has a next state rests also on the model's own choices: that mutation is an event,
which alone a step refuses (log entry 9), and waiting with no event pending is a step (log entry 10). -/
def Obligations.EveryCommandAnswersOnce : Prop :=
  (∀ (s : State) (c : CmdWord) (x : BitVec s.variant.width) (rest : List (HostEvent s.variant.width)),
    s.pending = .command c x :: rest →
    ∃ t r, step s = .next t ∧ t.responses = s.responses ++ [r]) ∧
  ∀ s : State, (∀ rest, s.pending ≠ .unarbitratedMutation :: rest) → ∃ t, step s = .next t

/-! ### Reset, waiting, and unarbitrated Hosts -/

/-- Reset leaves the reset state, from any state, and VARIANT with it (70_reset_and_hazards.md R150). What
becomes of the ports and of the model's own record of responses, which the rule does not speak of, is
left open here. -/
def Obligations.ResetLeavesTheResetState : Prop :=
  (∀ (s : State) (rest : List (HostEvent s.variant.width)), s.pending = .reset :: rest →
    ∃ c x r, step s = .next { s with
      acc := none, fault := false, cause := .none, fcmd := 0, cmd := c, salt := x, pending := rest,
      responses := r }) ∧
  ∀ v : Variant, (State.resetOf v).variant = v ∧ (State.resetOf v).acc = none ∧
    (State.resetOf v).constructed = false ∧ (State.resetOf v).fault = false ∧
    (State.resetOf v).cause = .none ∧ (State.resetOf v).fcmd = 0

/-- With nothing delivered, the block waits and does nothing (70_reset_and_hazards.md R152). That waiting
is a step which answers the same state is the model's (log entry 10). -/
def Obligations.IdleBlockWaits : Prop := ∀ s : State, s.pending = [] → step s = .next s

/-- Unarbitrated mutation by two Hosts is refused by name (20_memory.md R49;
93_implementation_defined.md U1). That it is an event of the step is the model's (log entry 9). -/
def Obligations.UnarbitratedMutationIsRefused : Prop :=
  ∀ (s : State) (rest : List (HostEvent s.variant.width)),
    s.pending = .unarbitratedMutation :: rest → step s = .refused .concurrentMutation

/-! ### Invariants -/

/-- Every step keeps the fault record sound: CAUSE and FCMD are 0 without a fault, and with one they
name a cause and a word that raises it (10_state.md R23, R24; 60_exceptions.md R130). -/
def Obligations.StepKeepsFaultRecordSound : Prop :=
  ∀ s t : State, s.FaultRecordSound → step s = .next t → t.FaultRecordSound

/-- Every step keeps "faulted exactly when some response of the run was ERR" together with "the errors
come last" (70_reset_and_hazards.md R160; 60_exceptions.md R134). That the record of responses starts
anew at a reset is the model's own (log entry 4). -/
def Obligations.StepKeepsErrExactlyWhenFaulted : Prop :=
  ∀ s t : State, s.ErrExactlyWhenFaulted → s.ErrorsComeLast → step s = .next t →
    t.ErrExactlyWhenFaulted ∧ t.ErrorsComeLast

/-- Every step keeps the form of the values answered: bit 31 set in MA32H, RSP[63:32] = 0 in a 32-bit
variant (42_result.md R111, R113, R115). -/
def Obligations.StepKeepsResponsesFormatted : Prop :=
  ∀ s t : State, s.ResponsesFormatted → step s = .next t → t.ResponsesFormatted

/-- The state right after reset meets the invariants, in every variant (10_state.md R33). That the record
of responses is empty there (log entry 4) and that State.reset is the MA64 one (log entry 2) is the
model's choice. -/
def Obligations.ResetMeetsTheInvariants : Prop :=
  ∀ v : Variant, (State.resetOf v).FaultRecordSound ∧ (State.resetOf v).ErrExactlyWhenFaulted ∧
    (State.resetOf v).ErrorsComeLast ∧ (State.resetOf v).ResponsesFormatted ∧
    State.reset = State.resetOf .ma64

/-! ### The status output -/

/-- The fields of STATUS, bit by bit (10_state.md R23). -/
def Obligations.StatusShowsItsFields : Prop :=
  ∀ s : State,
    s.status.getLsbD 0 = s.constructed ∧ s.status.getLsbD 1 = s.fault ∧
    s.status.extractLsb' 2 2 = 0 ∧
    (s.status.extractLsb' 4 4).toNat = (match s.cause with
      | .none => 0
      | .illegalCommand => 1
      | .unsupportedCommand => 2
      | .notConstructed => 3) ∧
    (s.status.extractLsb' 8 3).toNat = (match s.variant with
      | .ma64 => 0
      | .dso64 => 1
      | .ma32 => 2
      | .ma32h => 3
      | .mx64 => 4
      | .mx32 => 5) ∧
    (s.status.getLsbD 11 = true ↔ s.variant.width = 64) ∧
    s.status.extractLsb' 12 4 = 0

/-- Reading STATUS gives its fields back, and a word with a reserved bit set, a CAUSE of 4 to 15 or a
VARIANT_ID of 6 or 7 is refused (10_state.md R23; 93_implementation_defined.md U7). That a WIDTH64 that
is not its variant's is refused too is the model's choice (log entry 16). -/
def Obligations.StatusReadsBackAndRefusesTheRest : Prop :=
  (∀ s : State, readStatus s.status = some s.statusFields) ∧
  (∀ (r : BitVec 16) (f : StatusFields), readStatus r = some f → f.word = r) ∧
  ∀ r : BitVec 16,
    (r.extractLsb' 2 2 ≠ 0 ∨ r.extractLsb' 12 4 ≠ 0 ∨ 4 ≤ (r.extractLsb' 4 4).toNat ∨
      6 ≤ (r.extractLsb' 8 3).toNat) → readStatus r = none

/-- FCMD (10_state.md R24) is written only by fault entry, with the command word, and by reset, with
0; a later fault does not overwrite it; and it is 0 while FAULT = 0, from reset on. -/
def Obligations.FcmdKeepsTheFirstFaultingWord : Prop :=
  (∀ s t : State, step s = .next t →
    t.fcmd = s.fcmd ∨
    (s.fault = false ∧ t.fault = true ∧ ∃ x rest, s.pending = .command t.fcmd x :: rest) ∨
    ((∃ rest, s.pending = .reset :: rest) ∧ t.fcmd = 0)) ∧
  (∀ s t : State, step s = .next t → s.fault = false → t.fault = true →
    ∃ x rest, s.pending = .command t.fcmd x :: rest) ∧
  (∀ s t : State, step s = .next t → s.fault = true → t.fault = true → t.fcmd = s.fcmd) ∧
  (∀ s t : State, (s.fault = false → s.fcmd = 0) → step s = .next t → t.fault = false →
    t.fcmd = 0) ∧
  (∀ v : Variant, (State.resetOf v).fault = false ∧ (State.resetOf v).fcmd = 0) ∧
  ∀ s : State, s.fcmdOutput = s.fcmd

/-! ### Order, runs and instances -/

/-- An event takes its effect before anything that arrives after it: what is yet to come changes nothing
but what is yet to come (20_memory.md R47, R50). That what is yet to come is a list in the state is the
model's choice (log entry 5). -/
def Obligations.LaterArrivalsHaveNoEffect : Prop :=
  ∀ (s : State) (e : HostEvent s.variant.width) (p q : List (HostEvent s.variant.width)),
    e ≠ .unarbitratedMutation →
    ∃ (a : Option (BitVec s.variant.width)) (f : Bool) (k : Cause) (w c : CmdWord)
      (x : BitVec s.variant.width) (r : List Response),
      step { s with pending := e :: p } = .next { s with
        acc := a, fault := f, cause := k, fcmd := w, cmd := c, salt := x, responses := r,
        pending := p } ∧
      step { s with pending := e :: q } = .next { s with
        acc := a, fault := f, cause := k, fcmd := w, cmd := c, salt := x, responses := r,
        pending := q }

/-- n FEEDs are a chain of n combine steps, in the order of the bytes, each on the STATE the one before
left; what stands on the SALT bus meanwhile does not matter (41_feed.md R97; 20_memory.md R42). -/
def Obligations.FeedStreamIsAChain : Prop :=
  ∀ (s : State) (a : BitVec s.variant.width) (stream : List (Byte × BitVec s.variant.width))
    (rest : List (HostEvent s.variant.width)), s.fault = false → s.acc = some a →
    runSteps stream.length { s with
      pending := stream.map (fun p => .command (encode (.feed p.1)) p.2) ++ rest } =
    .next { s with
      acc := some ((stream.map Prod.fst).foldl (combine s.variant) a)
      cmd := stream.foldl (fun _ p => encode (.feed p.1)) s.cmd
      salt := stream.foldl (fun _ p => p.2) s.salt
      pending := rest
      responses := s.responses ++ List.replicate stream.length .none }

/-- A run from reset ends after its last command with one response for each, and it succeeds exactly when
none of them was ERR (70_reset_and_hazards.md R160). The record of responses is the model's own (log
entry 4). -/
def Obligations.RunSucceedsExactlyWithoutErr : Prop :=
  ∀ (v : Variant) (commands : List (CmdWord × BitVec v.width)),
    ∃ t, runOf v commands = .next t ∧ t.pending = [] ∧ t.responses.length = commands.length ∧
      (t.runSucceeded ↔ Response.err ∉ t.responses)

/-- A step of one instance leaves every other as it was, and does to its own what it would alone
(20_memory.md R53). That instances are a list is the model's choice (log entry 17). -/
def Obligations.InstancesShareNothing : Prop :=
  ∀ (bank : Bank) (k : Fin bank.length) (t : State), step bank[k] = .next t →
    ∃ bank' : Bank, bank.stepAt k = .next bank' ∧ bank'.length = bank.length ∧
      bank'[k.val]? = some t ∧ ∀ j : Nat, j ≠ k.val → bank'[j]? = bank[j]?

/-! ### The assembler -/

/-- The assembler refuses exactly a byte over 255, a salt of 2^W or more, INIT_SALT for DSO64 and
RESULT32 for a 64-bit variant; what it does not refuse decodes to the command it stands for, with the
salt's value beside the word (30_encoding.md R67). -/
def Obligations.AssemblerRefusesWhatTheVariantLacks : Prop :=
  (∀ v : Variant,
    (∀ b, (AsmCommand.feed b).assemble v = none ↔ 255 < b) ∧
    (∀ n, (AsmCommand.initSalt n).assemble v = none ↔ 2 ^ v.width ≤ n ∨ v = .dso64) ∧
    (AsmCommand.result32.assemble v = none ↔ v.width = 64) ∧
    AsmCommand.init.assemble v ≠ none ∧ AsmCommand.result.assemble v ≠ none) ∧
  ∀ (v : Variant) (c : AsmCommand) (w : CmdWord) (x : BitVec v.width), c.assemble v = some (w, x) →
    decode w = .legal c.instr ∧ c.instr.supported v = true ∧
    (∀ n, c = .initSalt n → x.toNat = n) ∧
    (∀ b, c = .feed b → ∃ y : Byte, c.instr = .feed y ∧ y.toNat = b)

/-- The pseudo-instructions: FEEDS is one FEED for each byte in order and nothing for no bytes, two
FEEDS in a row are the FEEDS of the bytes joined, and HASH and HASH_SALT put a construction before and
RESULT after (30_encoding.md R68; 41_feed.md R96). The table behind `utf8Bytes` is the model's, PRESUMED
(log entry 7). -/
def Obligations.PseudoInstructionsExpand : Prop :=
  (AsmLine.feeds []).expand = [] ∧
  (∀ (b : Nat) (bytes : List Nat),
    (AsmLine.feeds (b :: bytes)).expand = .feed b :: (AsmLine.feeds bytes).expand) ∧
  (∀ p q : List Nat, (AsmLine.feeds (p ++ q)).expand =
    (AsmLine.feeds p).expand ++ (AsmLine.feeds q).expand) ∧
  (∀ text : List Char, (AsmLine.feedsText text).expand =
    (AsmLine.feeds (text.flatMap utf8Bytes)).expand) ∧
  (∀ bytes : List Nat, (AsmLine.hash bytes).expand =
    .init :: (AsmLine.feeds bytes).expand ++ [.result]) ∧
  ∀ (n : Nat) (bytes : List Nat), (AsmLine.hashSalt n bytes).expand =
    .initSalt n :: (AsmLine.feeds bytes).expand ++ [.result]
end

