-- ==== Sys2Proof/Laws/State.lean ====
section
/-! SUPPORT. What each update of the state does to each field, so that no proof unfolds a record
update; and the same for the state after reset. -/

namespace Sys2Proof.Machine

@[simp] theorem State.writeAcc_variant (s : State) (v : BitVec s.variant.width) :
    (s.writeAcc v).variant = s.variant := rfl
@[simp] theorem State.writeAcc_acc (s : State) (v : BitVec s.variant.width) :
    (s.writeAcc v).acc = some v := rfl
@[simp] theorem State.writeAcc_fault (s : State) (v : BitVec s.variant.width) :
    (s.writeAcc v).fault = s.fault := rfl
@[simp] theorem State.writeAcc_cause (s : State) (v : BitVec s.variant.width) :
    (s.writeAcc v).cause = s.cause := rfl
@[simp] theorem State.writeAcc_fcmd (s : State) (v : BitVec s.variant.width) :
    (s.writeAcc v).fcmd = s.fcmd := rfl
@[simp] theorem State.writeAcc_cmd (s : State) (v : BitVec s.variant.width) :
    (s.writeAcc v).cmd = s.cmd := rfl
@[simp] theorem State.writeAcc_salt (s : State) (v : BitVec s.variant.width) :
    (s.writeAcc v).salt = s.salt := rfl
@[simp] theorem State.writeAcc_pending (s : State) (v : BitVec s.variant.width) :
    (s.writeAcc v).pending = s.pending := rfl
@[simp] theorem State.writeAcc_responses (s : State) (v : BitVec s.variant.width) :
    (s.writeAcc v).responses = s.responses := rfl
@[simp] theorem State.writeAcc_constructed (s : State) (v : BitVec s.variant.width) :
    (s.writeAcc v).constructed = true := rfl

@[simp] theorem State.respond_variant (s : State) (r : Response) :
    (s.respond r).variant = s.variant := rfl
@[simp] theorem State.respond_acc (s : State) (r : Response) :
    (s.respond r).acc = s.acc := rfl
@[simp] theorem State.respond_fault (s : State) (r : Response) :
    (s.respond r).fault = s.fault := rfl
@[simp] theorem State.respond_cause (s : State) (r : Response) :
    (s.respond r).cause = s.cause := rfl
@[simp] theorem State.respond_fcmd (s : State) (r : Response) :
    (s.respond r).fcmd = s.fcmd := rfl
@[simp] theorem State.respond_cmd (s : State) (r : Response) :
    (s.respond r).cmd = s.cmd := rfl
@[simp] theorem State.respond_salt (s : State) (r : Response) :
    (s.respond r).salt = s.salt := rfl
@[simp] theorem State.respond_pending (s : State) (r : Response) :
    (s.respond r).pending = s.pending := rfl
@[simp] theorem State.respond_responses (s : State) (r : Response) :
    (s.respond r).responses = s.responses ++ [r] := rfl
@[simp] theorem State.respond_constructed (s : State) (r : Response) :
    (s.respond r).constructed = s.constructed := rfl

@[simp] theorem State.raiseFault_variant (s : State) (k : Cause) :
    (s.raiseFault k).variant = s.variant := rfl
@[simp] theorem State.raiseFault_acc (s : State) (k : Cause) :
    (s.raiseFault k).acc = s.acc := rfl
@[simp] theorem State.raiseFault_fault (s : State) (k : Cause) :
    (s.raiseFault k).fault = true := rfl
@[simp] theorem State.raiseFault_cause (s : State) (k : Cause) :
    (s.raiseFault k).cause = k := rfl
@[simp] theorem State.raiseFault_fcmd (s : State) (k : Cause) :
    (s.raiseFault k).fcmd = s.cmd := rfl
@[simp] theorem State.raiseFault_cmd (s : State) (k : Cause) :
    (s.raiseFault k).cmd = s.cmd := rfl
@[simp] theorem State.raiseFault_salt (s : State) (k : Cause) :
    (s.raiseFault k).salt = s.salt := rfl
@[simp] theorem State.raiseFault_pending (s : State) (k : Cause) :
    (s.raiseFault k).pending = s.pending := rfl
@[simp] theorem State.raiseFault_responses (s : State) (k : Cause) :
    (s.raiseFault k).responses = s.responses ++ [.err] := rfl
@[simp] theorem State.raiseFault_constructed (s : State) (k : Cause) :
    (s.raiseFault k).constructed = s.constructed := rfl

@[simp] theorem State.blockReset_variant (s : State) :
    (s.blockReset).variant = s.variant := rfl
@[simp] theorem State.blockReset_acc (s : State) :
    (s.blockReset).acc = none := rfl
@[simp] theorem State.blockReset_fault (s : State) :
    (s.blockReset).fault = false := rfl
@[simp] theorem State.blockReset_cause (s : State) :
    (s.blockReset).cause = .none := rfl
@[simp] theorem State.blockReset_fcmd (s : State) :
    (s.blockReset).fcmd = 0 := rfl
@[simp] theorem State.blockReset_cmd (s : State) :
    (s.blockReset).cmd = s.cmd := rfl
@[simp] theorem State.blockReset_salt (s : State) :
    (s.blockReset).salt = s.salt := rfl
@[simp] theorem State.blockReset_pending (s : State) :
    (s.blockReset).pending = s.pending := rfl
@[simp] theorem State.blockReset_responses (s : State) :
    (s.blockReset).responses = [] := rfl
@[simp] theorem State.blockReset_constructed (s : State) :
    (s.blockReset).constructed = false := rfl

@[simp] theorem State.accept_variant (s : State) (c : CmdWord) (x : BitVec s.variant.width)
    (rest : List (HostEvent s.variant.width)) :
    (s.accept c x rest).variant = s.variant := rfl
@[simp] theorem State.accept_acc (s : State) (c : CmdWord) (x : BitVec s.variant.width)
    (rest : List (HostEvent s.variant.width)) :
    (s.accept c x rest).acc = s.acc := rfl
@[simp] theorem State.accept_fault (s : State) (c : CmdWord) (x : BitVec s.variant.width)
    (rest : List (HostEvent s.variant.width)) :
    (s.accept c x rest).fault = s.fault := rfl
@[simp] theorem State.accept_cause (s : State) (c : CmdWord) (x : BitVec s.variant.width)
    (rest : List (HostEvent s.variant.width)) :
    (s.accept c x rest).cause = s.cause := rfl
@[simp] theorem State.accept_fcmd (s : State) (c : CmdWord) (x : BitVec s.variant.width)
    (rest : List (HostEvent s.variant.width)) :
    (s.accept c x rest).fcmd = s.fcmd := rfl
@[simp] theorem State.accept_cmd (s : State) (c : CmdWord) (x : BitVec s.variant.width)
    (rest : List (HostEvent s.variant.width)) :
    (s.accept c x rest).cmd = c := rfl
@[simp] theorem State.accept_salt (s : State) (c : CmdWord) (x : BitVec s.variant.width)
    (rest : List (HostEvent s.variant.width)) :
    (s.accept c x rest).salt = x := rfl
@[simp] theorem State.accept_pending (s : State) (c : CmdWord) (x : BitVec s.variant.width)
    (rest : List (HostEvent s.variant.width)) :
    (s.accept c x rest).pending = rest := rfl
@[simp] theorem State.accept_responses (s : State) (c : CmdWord) (x : BitVec s.variant.width)
    (rest : List (HostEvent s.variant.width)) :
    (s.accept c x rest).responses = s.responses := rfl
@[simp] theorem State.accept_constructed (s : State) (c : CmdWord) (x : BitVec s.variant.width)
    (rest : List (HostEvent s.variant.width)) :
    (s.accept c x rest).constructed = s.constructed := rfl

@[simp] theorem State.deliver_variant (s : State) (c : CmdWord) :
    (s.deliver c).variant = s.variant := rfl
@[simp] theorem State.deliver_acc (s : State) (c : CmdWord) :
    (s.deliver c).acc = s.acc := rfl
@[simp] theorem State.deliver_fault (s : State) (c : CmdWord) :
    (s.deliver c).fault = s.fault := rfl
@[simp] theorem State.deliver_cause (s : State) (c : CmdWord) :
    (s.deliver c).cause = s.cause := rfl
@[simp] theorem State.deliver_fcmd (s : State) (c : CmdWord) :
    (s.deliver c).fcmd = s.fcmd := rfl
@[simp] theorem State.deliver_cmd (s : State) (c : CmdWord) :
    (s.deliver c).cmd = s.cmd := rfl
@[simp] theorem State.deliver_salt (s : State) (c : CmdWord) :
    (s.deliver c).salt = s.salt := rfl
@[simp] theorem State.deliver_pending (s : State) (c : CmdWord) :
    (s.deliver c).pending = .command c s.salt :: s.pending := rfl
@[simp] theorem State.deliver_responses (s : State) (c : CmdWord) :
    (s.deliver c).responses = s.responses := rfl
@[simp] theorem State.deliver_constructed (s : State) (c : CmdWord) :
    (s.deliver c).constructed = s.constructed := rfl

@[simp] theorem State.resetOf_variant (v : Variant) : (State.resetOf v).variant = v := rfl
@[simp] theorem State.resetOf_acc (v : Variant) : (State.resetOf v).acc = none := rfl
@[simp] theorem State.resetOf_fault (v : Variant) : (State.resetOf v).fault = false := rfl
@[simp] theorem State.resetOf_cause (v : Variant) : (State.resetOf v).cause = .none := rfl
@[simp] theorem State.resetOf_fcmd (v : Variant) : (State.resetOf v).fcmd = 0 := rfl
@[simp] theorem State.resetOf_cmd (v : Variant) : (State.resetOf v).cmd = 0 := rfl
@[simp] theorem State.resetOf_salt (v : Variant) : (State.resetOf v).salt = 0 := rfl
@[simp] theorem State.resetOf_pending (v : Variant) : (State.resetOf v).pending = [] := rfl
@[simp] theorem State.resetOf_responses (v : Variant) : (State.resetOf v).responses = [] := rfl

end Sys2Proof.Machine
end

