-- ==== Sys2Proof/Laws/Ops.lean ====
section
/-! SUPPORT. What each shared operation can do, said once: the checks, the accumulator read, and the
shape of a command's next state. -/

namespace Sys2Proof.Machine

@[simp] theorem State.unlessFaulted_faulted (s body : State) (h : s.fault = true) :
    s.unlessFaulted body = s.respond .err := by
  simp [State.unlessFaulted, h]

@[simp] theorem State.unlessFaulted_unfaulted (s body : State) (h : s.fault = false) :
    s.unlessFaulted body = body := by
  simp [State.unlessFaulted, h]

theorem State.checked_faulted (s body : State) (supported : Bool) (h : s.fault = true) :
    s.checked supported body = s.respond .err := by
  simp [State.checked, h]

theorem State.checked_unsupported (s body : State) (h : s.fault = false) :
    s.checked false body = s.raiseFault .unsupportedCommand := by
  simp [State.checked, h]

theorem State.checked_supported (s body : State) (h : s.fault = false) :
    s.checked true body = body := by
  simp [State.checked, h]

/-- Everything the checks can do. -/
theorem State.checked_cases (s body : State) (supported : Bool) :
    (s.fault = true ∧ s.checked supported body = s.respond .err) ∨
    (s.fault = false ∧ supported = false ∧
      s.checked supported body = s.raiseFault .unsupportedCommand) ∨
    (s.fault = false ∧ supported = true ∧ s.checked supported body = body) := by
  cases h : s.fault <;> cases supported <;> simp [State.checked, h]

theorem State.onAccumulator_some (s : State) (body : BitVec s.variant.width → State)
    (a : BitVec s.variant.width) (h : s.acc = some a) : s.onAccumulator body = body a := by
  simp [State.onAccumulator, h]

theorem State.onAccumulator_none (s : State) (body : BitVec s.variant.width → State)
    (h : s.acc = none) : s.onAccumulator body = s.raiseFault .notConstructed := by
  simp [State.onAccumulator, h]

/-- Everything the read of STATE can do. -/
theorem State.onAccumulator_cases (s : State) (body : BitVec s.variant.width → State) :
    (s.acc = none ∧ s.onAccumulator body = s.raiseFault .notConstructed) ∨
    ∃ a, s.acc = some a ∧ s.onAccumulator body = body a := by
  cases h : s.acc with
  | none => exact .inl ⟨rfl, s.onAccumulator_none body h⟩
  | some a => exact .inr ⟨a, rfl, s.onAccumulator_some body a h⟩

/-- What a command does to a state, once it has passed the checks: the state after its body, or none
if STATE holds no value that the body needs. -/
def bodyOf (i : Instr) (s : State) : State :=
  match i with
  | .init => (s.writeAcc (seed s.variant.width)).respond .none
  | .initSalt => (s.writeAcc s.salt).respond .none
  | .feed b => s.onAccumulator fun a => (s.writeAcc (combine s.variant a b)).respond .none
  | .result => s.onAccumulator fun a => s.respond (.val (resultValue s.variant a))
  | .result32 => s.onAccumulator fun a => s.respond (.val (result32Value s.variant a))

/-- Every command is its body behind the common checks. -/
theorem exec_eq_checked (i : Instr) (s : State) :
    exec i s = .next (s.checked (i.supported s.variant) (bodyOf i s)) := by
  cases i <;> rfl

/-- Everything a command's body can do. -/
theorem bodyOf_cases (i : Instr) (s : State) :
    (i = .init ∧ bodyOf i s = (s.writeAcc (seed s.variant.width)).respond .none) ∨
    (i = .initSalt ∧ bodyOf i s = (s.writeAcc s.salt).respond .none) ∨
    (i.needsAccumulator = true ∧ s.acc = none ∧ bodyOf i s = s.raiseFault .notConstructed) ∨
    (∃ b a, i = .feed b ∧ s.acc = some a ∧
      bodyOf i s = (s.writeAcc (combine s.variant a b)).respond .none) ∨
    (∃ a, i = .result ∧ s.acc = some a ∧
      bodyOf i s = s.respond (.val (resultValue s.variant a))) ∨
    (∃ a, i = .result32 ∧ s.acc = some a ∧
      bodyOf i s = s.respond (.val (result32Value s.variant a))) := by
  cases i with
  | init => exact .inl ⟨rfl, rfl⟩
  | initSalt => exact .inr (.inl ⟨rfl, rfl⟩)
  | feed b =>
    rcases s.onAccumulator_cases fun a => (s.writeAcc (combine s.variant a b)).respond .none with
      ⟨h, e⟩ | ⟨a, h, e⟩
    · exact .inr (.inr (.inl ⟨rfl, h, e⟩))
    · exact .inr (.inr (.inr (.inl ⟨b, a, rfl, h, e⟩)))
  | result =>
    rcases s.onAccumulator_cases fun a => s.respond (.val (resultValue s.variant a)) with
      ⟨h, e⟩ | ⟨a, h, e⟩
    · exact .inr (.inr (.inl ⟨rfl, h, e⟩))
    · exact .inr (.inr (.inr (.inr (.inl ⟨a, rfl, h, e⟩))))
  | result32 =>
    rcases s.onAccumulator_cases fun a => s.respond (.val (result32Value s.variant a)) with
      ⟨h, e⟩ | ⟨a, h, e⟩
    · exact .inr (.inr (.inl ⟨rfl, h, e⟩))
    · exact .inr (.inr (.inr (.inr (.inr ⟨a, rfl, h, e⟩))))

end Sys2Proof.Machine
end

