-- ==== Sys2Proof/Laws/PerInstr.lean ====
section
/-! SUPPORT. A statement for each command as syntax: the fields of its word (spec/30_encoding.md R60). -/

namespace Sys2Proof.Laws.EncodedFields

/-- The word of a command has its reserved field 0 and an operation selector of 0x1 to 0x5, and its
immediate is 0 unless the operation is FEED. -/
def Statement (i : Instr) : Prop :=
  rsvField (encode i) = 0 ∧ 1 ≤ (opField (encode i)).toNat ∧ (opField (encode i)).toNat ≤ 5 ∧
    (opField (encode i) ≠ 0x3 → immField (encode i) = 0)

theorem init : Statement .init := by unfold Statement; decide

theorem initSalt : Statement .initSalt := by unfold Statement; decide

theorem feed (b : Byte) : Statement (.feed b) := by
  have hr : rsvField (encode (.feed b)) = 0 := by
    simp only [rsvField, encode]
    rw [BitVec.extractLsb'_append_eq_of_le (by omega)]
    decide
  have ho : opField (encode (.feed b)) = 0x3 := by
    simp only [opField, encode]
    rw [BitVec.extractLsb'_append_eq_of_le (by omega)]
    decide
  exact ⟨hr, by simp [ho], by simp [ho], fun h => absurd ho h⟩

theorem result : Statement .result := by unfold Statement; decide

theorem result32 : Statement .result32 := by unfold Statement; decide

end Sys2Proof.Laws.EncodedFields
end

