-- ==== Sys2Proof/Laws/Step.lean ====
section
/-! SUPPORT. What one step can do, event by event. -/

namespace Sys2Proof.Machine

theorem performCommand_legal (s : State) (i : Instr) (h : decode s.cmd = .legal i) :
    performCommand s = exec i s := by
  simp [performCommand, h]

theorem performCommand_illegal (s : State) (why : IllegalReason) (h : decode s.cmd = .illegal why) :
    performCommand s = .next (s.unlessFaulted (s.raiseFault .illegalCommand)) := by
  simp [performCommand, execIllegal, h]

/-- The two lemmas above for a command just taken from the port. -/
theorem performCommand_accept_legal (s : State) (c : CmdWord) (x : BitVec s.variant.width)
    (rest : List (HostEvent s.variant.width)) (i : Instr) (h : decode c = .legal i) :
    performCommand (s.accept c x rest) = exec i (s.accept c x rest) :=
  performCommand_legal (s.accept c x rest) i h

theorem performCommand_accept_illegal (s : State) (c : CmdWord) (x : BitVec s.variant.width)
    (rest : List (HostEvent s.variant.width)) (why : IllegalReason) (h : decode c = .illegal why) :
    performCommand (s.accept c x rest) =
      .next ((s.accept c x rest).unlessFaulted
        ((s.accept c x rest).raiseFault .illegalCommand)) :=
  performCommand_illegal (s.accept c x rest) why h

theorem step_command (s : State) (c : CmdWord) (x : BitVec s.variant.width)
    (rest : List (HostEvent s.variant.width)) (h : s.pending = .command c x :: rest) :
    step s = performCommand (s.accept c x rest) := by
  simp [step, h, onEvent]

theorem step_reset_event (s : State) (rest : List (HostEvent s.variant.width))
    (h : s.pending = .reset :: rest) :
    step s = .next { s.blockReset with pending := rest } := by
  simp [step, h, onEvent]

/-- The word on the port is an instruction's only, and a command's performance is always a next
state: an answer of ERR by a faulted block, an illegal word's fault, or the checked body. -/
theorem performCommand_cases (s : State) :
    (s.fault = true ∧ performCommand s = .next (s.respond .err)) ∨
    (s.fault = false ∧ (∃ why, decode s.cmd = .illegal why) ∧
      performCommand s = .next (s.raiseFault .illegalCommand)) ∨
    (∃ i, s.fault = false ∧ decode s.cmd = .legal i ∧ i.supported s.variant = false ∧
      performCommand s = .next (s.raiseFault .unsupportedCommand)) ∨
    (∃ i, s.fault = false ∧ decode s.cmd = .legal i ∧ i.supported s.variant = true ∧
      performCommand s = .next (bodyOf i s)) := by
  cases d : decode s.cmd with
  | illegal why =>
    rw [performCommand_illegal s why d]
    cases h : s.fault <;> simp [h]
  | legal i =>
    rw [performCommand_legal s i d, exec_eq_checked]
    rcases s.checked_cases (bodyOf i s) (i.supported s.variant) with
      ⟨h, e⟩ | ⟨h, u, e⟩ | ⟨h, u, e⟩
    · exact .inl ⟨h, by rw [e]⟩
    · exact .inr (.inr (.inl ⟨i, h, rfl, u, by rw [e]⟩))
    · exact .inr (.inr (.inr ⟨i, h, rfl, u, by rw [e]⟩))

/-- Everything a step that answers a next state can be: waiting, a reset, or a command performed. -/
theorem step_cases {s t : State} (h : step s = .next t) :
    (s.pending = [] ∧ t = s) ∨
    (∃ rest, s.pending = .reset :: rest ∧
      t = { s.blockReset with pending := rest }) ∨
    (∃ c x rest, s.pending = .command c x :: rest ∧
      performCommand (s.accept c x rest) = .next t) := by
  cases p : s.pending with
  | nil =>
    simp only [step, p, onIdle, Host.Outcome.next.injEq] at h
    exact .inl ⟨rfl, h.symm⟩
  | cons e rest =>
    cases e with
    | command c x => exact .inr (.inr ⟨c, x, rest, rfl, by rw [← h, step_command s c x rest p]⟩)
    | reset =>
      rw [step_reset_event s rest p, Host.Outcome.next.injEq] at h
      exact .inr (.inl ⟨rest, rfl, h.symm⟩)
    | unarbitratedMutation => simp [step, p, onEvent] at h

end Sys2Proof.Machine
end

