-- ==== Sys2Proof/Tests/Slice0.lean ====
section
/-! SUPPORT. The model's own tests, their expected values from spec/95_test_vectors.md and the rules
named, and for each statement with hypotheses a witness that meets them. -/

namespace Sys2Proof.Tests

open Sys2Proof.Machine

/-! ### Small states -/

/-- A block of a variant, unfaulted, with or without a value in STATE. -/
def block (v : Variant) (a : Option (BitVec v.width)) : State := { State.resetOf v with acc := a }

/-- A block that an all-zero word has faulted after INIT (95_test_vectors.md F6). -/
def faultedBlock (v : Variant) : State :=
  { State.resetOf v with
    acc := some 5381, fault := true, cause := .illegalCommand, fcmd := 0, responses := [.none, .err] }

/-- A state with one word on its way, the SALT bus at 0. -/
def sent (s : State) (c : CmdWord) : State := { s with pending := [.command c 0] }

/-- What a test looks at: STATE, FAULT, CAUSE, FCMD and the responses. -/
def seen (o : Host.Outcome State Fault Refusal) :
    Option (Option Nat × Bool × Cause × CmdWord × List Response) :=
  (nextState? o).map fun t => (t.acc.map BitVec.toNat, t.fault, t.cause, t.fcmd, t.responses)

/-! ### WellFormed: an ill-formed term for each check -/

theorem test_wf_initSalt_dso64 : Instr.wf .dso64 .initSalt = false := by decide
theorem test_wf_initSalt_others :
    (∀ v ∈ [Variant.ma64, .ma32, .ma32h, .mx64, .mx32], Instr.wf v .initSalt = true) := by decide
theorem test_wf_result32_wide :
    (∀ v ∈ [Variant.ma64, .dso64, .mx64], Instr.wf v .result32 = false) := by decide
theorem test_wf_result32_native :
    (∀ v ∈ [Variant.ma32, .ma32h, .mx32], Instr.wf v .result32 = true) := by decide
theorem test_params_refused : Params.variant? ⟨64, .xor, true, true, false⟩ = none := by decide

/-! ### Decode: words written out from 30_encoding.md R60, R62 and R69 -/

theorem test_decode_init : decode 0b0001000000000000 = .legal .init := by decide
theorem test_decode_initSalt : decode 0b0010000000000000 = .legal .initSalt := by decide
theorem test_decode_feed : decode 0b0011000001000101 = .legal (.feed 69) := by decide
theorem test_decode_feed_top : decode 0b0011000011111111 = .legal (.feed 255) := by decide
theorem test_decode_result : decode 0b0100000000000000 = .legal .result := by decide
theorem test_decode_result32 : decode 0b0101000000000000 = .legal .result32 := by decide
theorem test_decode_illegal :
    decode 0x0000 = .illegal .reservedOp ∧ decode 0x1001 = .illegal .strayImmediate ∧
    decode 0x3145 = .illegal .reservedField ∧ decode 0x6000 = .illegal .reservedOp ∧
    decode 0xFFFF = .illegal .reservedField := by decide
theorem test_encode_feed : encode (.feed 122) = 0x307A := by decide
theorem test_table_word : decodeTableWord 16 0x5000 = some .result32 ∧
    decodeTableWord 16 0x5001 = none := by decide

/-! ### Datapath (95_test_vectors.md 2.1, 2.2) -/

theorem test_mul33_32 : mul33 0xDEADBEEF#32 = 0xB4659CCF#32 := by decide
theorem test_mul33_64 : mul33 0x0123456789ABCDEF#64 = 0x258BF258BF258BCF#64 := by decide
theorem test_combine_add_carry : combine .ma32 0x07C1F07C#32 63 = 0x0000003B#32 := by decide
theorem test_combine_xor_no_carry : combine .mx32 0x07C1F07C#32 63 = 0xFFFFFFC3#32 := by decide
theorem test_combine_add_carry64 : combine .dso64 0x07C1F07C1F07C1F0#64 63 = 0x2F#64 := by decide
theorem test_combine_xor64 :
    combine .mx64 0x07C1F07C1F07C1F0#64 63 = 0xFFFFFFFFFFFFFFCF#64 := by decide

/-! ### The commands, one step each -/

/-- F6's first command, from reset. -/
theorem test_init :
    seen (exec .init (State.resetOf .ma32)) = some (some 0x1505, false, .none, 0, [.none]) := by decide

/-- F8: INIT does not clear a fault. -/
theorem test_init_faulted :
    seen (step (sent (faultedBlock .mx64) 0x1000)) =
      some (some 0x1505, true, .illegalCommand, 0, [.none, .err, .err]) := by decide

/-- P3's first command. -/
theorem test_initSalt :
    seen (exec .initSalt { State.resetOf .mx32 with salt := 0xFFFFFFFF }) =
      some (some 0xFFFFFFFF, false, .none, 0, [.none]) := by decide

/-- F3. -/
theorem test_initSalt_dso64 :
    seen (step (sent (State.resetOf .dso64) 0x2000)) =
      some (none, true, .unsupportedCommand, 0x2000, [.err]) := by decide

/-- V14: ADD with STATE = 2^32 - 1 and b = 33 gives 0. -/
theorem test_feed_wraps :
    seen (exec (.feed 33) (block .ma32h (some 0xFFFFFFFF))) =
      some (some 0, false, .none, 0, [.none]) := by decide

/-- F2. -/
theorem test_feed_not_constructed :
    seen (step (sent (State.resetOf .ma64) 0x3000)) =
      some (none, true, .notConstructed, 0x3000, [.err]) := by decide

/-- W1's last command. -/
theorem test_result :
    seen (exec .result (block .ma64 (some 0x5973A4))) =
      some (some 0x5973A4, false, .none, 0, [.val 5862308]) := by decide

/-- V16: the forced bit is zero-extended, and STATE keeps its own bit 31. -/
theorem test_result_forced :
    seen (exec .result (block .ma32h (some 0x1505))) =
      some (some 0x1505, false, .none, 0, [.val 2147489029]) := by decide

/-- W9's last command. -/
theorem test_result32 :
    seen (exec .result32 (block .ma32h (some 0x5973A4))) =
      some (some 0x5973A4, false, .none, 0, [.val 2153345956]) := by decide

/-- F4: UNSUPPORTED outranks NOT_CONSTRUCTED. -/
theorem test_result32_wide :
    seen (step (sent (State.resetOf .ma64) 0x5000)) =
      some (none, true, .unsupportedCommand, 0x5000, [.err]) := by decide

/-! ### Faults, reset, waiting, the ports -/

/-- F5: decode comes first. -/
theorem test_illegal_first :
    seen (step (sent (State.resetOf .ma64) 0x5001)) =
      some (none, true, .illegalCommand, 0x5001, [.err]) := by decide

/-- F11. -/
theorem test_illegal_reserved_field :
    seen (step (sent (block .mx32 (some 0x1505)) 0x3F00)) =
      some (some 0x1505, true, .illegalCommand, 0x3F00, [.err]) := by decide

/-- F9's reset (70_reset_and_hazards.md R150). -/
theorem test_reset_event :
    seen (step { faultedBlock .mx64 with pending := [.reset] }) =
      some (none, false, .none, 0, []) := by decide

theorem test_idle : nextState? (step (faultedBlock .ma32)) = some (faultedBlock .ma32) := by decide

theorem test_unarbitrated :
    nextState? (step { State.resetOf .ma32 with pending := [.unarbitratedMutation] }) = none := by decide

/-- A word of the opcode table runs as the first command after reset. -/
theorem test_fetch_word :
    seen (step (State.reset.withFetchWord 16 0x1000)) =
      some (some 0x1505, false, .none, 0, [.none]) := by decide

/-- F1's final STATUS: FAULT, CAUSE 3 and WIDTH64 (10_state.md R23). -/
theorem test_status_fault :
    ((nextState? (step (sent (State.resetOf .ma64) 0x4000))).map State.status) =
      some 0b0000100000110010 := by decide

/-- A constructed, unfaulted MX32: VARIANT_ID 5 and CONSTRUCTED (10_state.md R23). -/
theorem test_status_constructed : (block .mx32 (some 0)).status = 0b0000010100000001 := by decide

/-- Words no block drives: reserved bits, CAUSE 4, VARIANT_ID 6, WIDTH64 against the variant. -/
theorem test_status_refused :
    readStatus 0x0804 = none ∧ readStatus 0x8800 = none ∧ readStatus 0x0840 = none ∧
    readStatus 0x0600 = none ∧ readStatus 0x0000 = none := by decide

/-! ### The assembler (30_encoding.md R67, R68) -/

theorem test_assemble_salt :
    (AsmCommand.initSalt 5387).assemble .ma64 = some (0x2000, 0x150B) := by decide

/-- An ill-formed term for each refusal. -/
theorem test_assemble_refused :
    (AsmCommand.feed 256).assemble .ma64 = none ∧
    (AsmCommand.initSalt 4294967296).assemble .ma32 = none ∧
    (AsmCommand.initSalt 1).assemble .dso64 = none ∧
    AsmCommand.result32.assemble .mx64 = none := by decide

theorem test_assemble_text :
    assembleText .ma64 ['f', 'e', 'E', 'd', ' ', '0', 'x', '4', '5', ' ', ';', 'E', '\n',
      '\n', 'R', 'E', 'S', 'U', 'L', 'T'] = some [(0x3045, 0), (0x4000, 0)] := by decide

/-- The underscore groups digits (00_scope.md R10). -/
theorem test_literal :
    readLiteral ['0', 'x', '8', '0', '0', '0', '_', '0', '0', '0', '0'] = some 0x80000000 ∧
    readLiteral ['2', '5', '5'] = some 255 ∧ readLiteral ['_', '1'] = none ∧
    readLiteral ['1', '_'] = none ∧ readLiteral ['0', 'x'] = none ∧ readLiteral ['1', 'A'] = none := by
  decide

theorem test_listing :
    (AsmCommand.feed 0x45).listing .ma64 =
      ['0', 'x', '3', '0', '4', '5', ' ', ' ', 'F', 'E', 'E', 'D', ' ', '0', 'x', '4', '5'] := by decide

theorem test_hash :
    (AsmLine.hash [69, 122]).expand = [.init, .feed 69, .feed 122, .result] := by decide

/-- GK2's bytes, and a character of two UTF-8 bytes. -/
theorem test_utf8 :
    (AsmLine.feedsText ['E', 'z']).expand = [.feed 69, .feed 122] ∧
    utf8Bytes (Char.ofNat 0xE9) = [0xC3, 0xA9] := by decide

/-! ### Witnesses: a state and operands that meet the hypotheses of each statement that has any -/

/-- Each case of the decode function, at the ends of its range. -/
theorem witness_DecodeFollowsTheFields :
    (rsvField 0x1100 ≠ 0 ∧ rsvField 0x3F00 ≠ 0) ∧
    (rsvField 0x1000 = 0 ∧ opField 0x1000 = 0x1 ∧ immField 0x1000 = 0) ∧
    (rsvField 0x2000 = 0 ∧ opField 0x2000 = 0x2 ∧ immField 0x2000 = 0) ∧
    (rsvField 0x30FF = 0 ∧ opField 0x30FF = 0x3) ∧
    (rsvField 0x4000 = 0 ∧ opField 0x4000 = 0x4 ∧ immField 0x4000 = 0) ∧
    (rsvField 0x5000 = 0 ∧ opField 0x5000 = 0x5 ∧ immField 0x5000 = 0) := by decide

/-- The last case, with a stray immediate and with reserved operations. -/
theorem witness_DecodeFollowsTheFields_otherwise :
    (rsvField 0x1001 = 0 ∧ opField 0x1001 ≠ 0x3 ∧ immField 0x1001 ≠ 0) ∧
    (rsvField 0x0000 = 0 ∧ opField 0x0000 ∉ [0x1#4, 0x2#4, 0x4#4, 0x5#4] ∧ opField 0x0000 ≠ 0x3) ∧
    (rsvField 0x6000 = 0 ∧ opField 0x6000 ∉ [0x1#4, 0x2#4, 0x4#4, 0x5#4] ∧ opField 0x6000 ≠ 0x3) := by
  decide

theorem witness_IllegalWordsAreTheReservedOnes :
    (block .ma64 none).fault = false ∧
    (sent (block .ma64 none) 0x0000).pending = [.command 0x0000 0] ∧
    ∃ why, decode 0x0000 = .illegal why := ⟨rfl, rfl, .reservedOp, rfl⟩

theorem witness_StepRunsTheDecodedCommand :
    (sent (block .ma64 none) 0x307A).pending = .command 0x307A 0 :: [] ∧
    decode 0x307A = .legal (.feed 122) := by decide

theorem witness_VariantIsOneOfSixAndFixed :
    Params.variant? ⟨32, .xor, false, true, true⟩ = some .mx32 ∧
    ∃ t, step (sent (block .mx32 none) 0x1000) = .next t := ⟨by decide, _, rfl⟩

theorem witness_SupportTableGovernsExecution :
    (block .dso64 none).fault = false ∧ Instr.initSalt.supported .dso64 = false ∧
    (block .mx64 none).fault = false ∧ Instr.result32.supported .mx64 = false := by decide

theorem witness_DefaultSaltOnlyMatchesMa64 :
    decode 0x0000 ≠ .legal .initSalt ∧ decode 0x3045 ≠ .legal .initSalt ∧
    decode 0x5000 ≠ .legal .initSalt := by decide

theorem witness_ShifterMultipliesBy33 : (32 = 32 ∨ 32 = 64) ∧ (64 = 32 ∨ 64 = 64) := by decide

theorem witness_AdditiveCombineWraps :
    ∀ v ∈ [Variant.ma64, .dso64, .ma32, .ma32h], v.op = .add := by decide

theorem witness_XorCombineChangesTheLowByte :
    (∀ v ∈ [Variant.mx64, .mx32], v.op = .xor) ∧ 7 < 8 ∧ 8 ≤ 8 ∧ 8 ≤ 63 := by decide

/-- Two accumulators of one operator and different widths that agree in bits [31:0]. -/
theorem witness_LowBitsAgreeAcrossWidths :
    Variant.ma64.op = Variant.ma32h.op ∧
    (0xFFFFFFFF80000000#64).setWidth 32 = (0x80000000#32).setWidth 32 := by decide

theorem witness_OutputFormatterForcesBit31 :
    (0x80000001#32).getLsbD 31 = true ∧ Variant.ma32 ≠ .ma32h ∧
    (block .ma32h (some 0x5973A4)).fault = false ∧
    (block .ma32h (some 0x5973A4)).acc = some 0x5973A4 := by decide

theorem witness_InitConstructsWithSeed :
    (block .dso64 (some 7)).fault = false ∧ (faultedBlock .dso64).fault = true ∧
    opField 0x1001 = 0x1 ∧ 0x1001#16 ≠ 0x1000 := by decide

theorem witness_ResultAfterInitIsTheSeed :
    (block .ma32h none).fault = false ∧ (block .mx64 (some 1)).fault = false := by decide

theorem witness_InitSaltConstructsWithSalt :
    ((block .ma32h none).fault = false ∧ (block .ma32h none).variant ≠ .dso64) ∧
    ({ block .mx32 none with salt := 5381 } : State).salt = 5381 ∧
    (block .mx32 none).salt = 0 ∧
    ((block .dso64 none).fault = false ∧ (block .dso64 none).variant = .dso64) ∧
    (faultedBlock .ma64).fault = true ∧ opField 0x20FF = 0x2 ∧ 0x20FF#16 ≠ 0x2000 := by decide

theorem witness_FeedCombinesOneByte :
    ((block .mx64 (some 0)).fault = false ∧ (block .mx64 (some 0)).acc = some 0) ∧
    ((block .ma32 none).fault = false ∧ (block .ma32 none).acc = none) ∧
    (faultedBlock .ma32).fault = true ∧ rsvField 0x3100 ≠ 0 ∧
    Variant.dso64.op = .add ∧ Variant.mx32.op = .xor := by decide

theorem witness_ResultReturnsFormattedAccumulator :
    ((block .ma32h (some 0)).fault = false ∧ (block .ma32h (some 0)).acc = some 0 ∧
      (block .ma32h (some 0)).variant.width = 32 ∧ (block .ma32h (some 0)).variant = .ma32h) ∧
    ((block .ma64 none).fault = false ∧ (block .ma64 none).acc = none) ∧
    (faultedBlock .ma64).fault = true ∧ opField 0x4001 = 0x4 ∧ 0x4001#16 ≠ 0x4000 := by decide

theorem witness_Result32ReturnsNativeHash :
    ((block .ma32h (some 0)).fault = false ∧
      (block .ma32h (some 0)).variant ∈ [Variant.ma32, .ma32h, .mx32] ∧
      (block .ma32h (some 0)).acc = some 0) ∧
    ((block .mx32 (some 0)).variant ∈ [Variant.ma32, .ma32h, .mx32] ∧
      (block .mx32 (some 0)).variant ≠ .ma32h) ∧
    ((block .dso64 none).fault = false ∧
      (block .dso64 none).variant ∈ [Variant.ma64, .dso64, .mx64]) ∧
    (block .ma32 none).acc = none ∧ (faultedBlock .ma32).fault = true ∧
    opField 0x5080 = 0x5 ∧ 0x5080#16 ≠ 0x5000 := by decide

theorem witness_Result32AgreesWithResult : (block .ma32h (some 3)).variant.res32Ok = true := by decide
theorem witness_Result32AnswersTheValueOfResult :
    (block .ma32h (some 0)).variant.res32Ok = true ∧ (block .ma32h (some 0)).fault = false ∧
    (block .ma32h (some 0)).acc = some 0 := by decide

theorem witness_ForcedResultIsNeverZero :
    (∃ t, (block .ma32h (some 0)).variant = .ma32h ∧
      exec .result32 (block .ma32h (some 0)) = .next t ∧
      t.responses = (block .ma32h (some 0)).responses ++ [.val 0x80000000]) ∧
    (block .dso64 (some 0)).variant ≠ .ma32h ∧ (block .dso64 (some 0)).fault = false ∧
    (block .dso64 (some 0)).acc = some 0 :=
  ⟨⟨_, rfl, rfl, by decide⟩, by decide, rfl, rfl⟩

theorem witness_ResultsDoNotMutate :
    ∃ t, exec .result32 (block .mx32 (some 9)) = .next t ∧ t.fault = (block .mx32 (some 9)).fault :=
  ⟨_, rfl, rfl⟩

theorem witness_SaltIsSampledOnlyByInitSalt :
    Instr.feed 1 ≠ .initSalt ∧ (∃ why, decode 0x0000 = .illegal why) ∧
    (block .ma32 none).fault = false ∧ (block .ma32 none).variant.saltOk = true :=
  ⟨by decide, ⟨_, rfl⟩, rfl, rfl⟩

theorem witness_ConstructedSetOnlyByConstruction :
    (∃ t, exec (.feed 1) (block .ma64 (some 0)) = .next t ∧ (block .ma64 (some 0)).constructed = true) ∧
    (∃ t, exec .init (block .ma64 none) = .next t ∧ (block .ma64 none).constructed = false ∧
      t.constructed = true ∧ (block .ma64 none).fault = false ∧
      Instr.init.supported (block .ma64 none).variant = true) ∧
    (∃ t, step { block .ma64 (some 0) with pending := [.reset] } = .next t ∧
      (block .ma64 (some 0)).constructed = true ∧ t.constructed = false) ∧
    ((block .mx32 none).fault = false ∧ Instr.result32.supported (block .mx32 none).variant = true) :=
  ⟨⟨_, rfl, rfl⟩, ⟨_, rfl, rfl, rfl, rfl, rfl⟩, ⟨_, rfl, rfl, rfl⟩, rfl, rfl⟩

theorem witness_ReconstructionDiscardsTheOldValue :
    (block .mx64 none).fault = false ∧ (block .mx64 none).variant.saltOk = true := by decide

theorem witness_ResultRebuildsTheAccumulator :
    (block .mx32 (some 0xFFFFFFFF)).fault = false ∧
    (block .mx32 (some 0xFFFFFFFF)).acc = some 0xFFFFFFFF ∧
    (block .mx32 (some 0xFFFFFFFF)).variant.saltOk = true ∧
    (block .mx32 (some 0xFFFFFFFF)).variant.hbf = false := by decide

/-- One state for each of the five checks: faulted, illegal, unsupported, not constructed, passed. -/
theorem witness_ChecksRunInOrder :
    ((faultedBlock .ma32).fault = true ∧
      (sent (faultedBlock .ma32) 0xFFFF).pending = .command 0xFFFF 0 :: []) ∧
    ((block .ma64 none).fault = false ∧ ∃ why, decode 0x5001 = .illegal why) ∧
    (decode 0x5000 = .legal .result32 ∧ Instr.result32.supported (block .ma64 none).variant = false) ∧
    (decode 0x4000 = .legal .result ∧ Instr.result.supported (block .ma64 none).variant = true ∧
      Instr.result.needsAccumulator = true ∧ (block .ma64 none).acc = none) ∧
    (decode 0x30FF = .legal (.feed 255) ∧ (block .ma64 (some 0)).acc ≠ none) :=
  ⟨⟨rfl, rfl⟩, ⟨rfl, _, rfl⟩, ⟨rfl, rfl⟩, ⟨rfl, rfl, rfl, rfl⟩, rfl, by decide⟩

theorem witness_ReadsNeedAConstruction :
    (Instr.result32.supported (block .ma32h none).variant = true ∧ (block .ma32h none).fault = false ∧
      (block .ma32h none).acc = none) ∧
    ∃ t, step (sent (block .ma32h none) 0x2000) = .next t ∧ t.acc ≠ none :=
  ⟨⟨rfl, rfl, rfl⟩, _, rfl, by decide⟩

theorem witness_FaultEntryIsPrecise :
    ∃ t, step (sent (block .ma64 none) 0x4000) = .next t ∧
      (sent (block .ma64 none) 0x4000).fault = false ∧ t.fault = true := ⟨_, rfl, rfl, rfl⟩

theorem witness_FaultedBlockOnlyAnswersErr :
    (faultedBlock .mx64).fault = true ∧
    (sent (faultedBlock .mx64) 0x1000).pending = .command 0x1000 0 :: [] := by decide

theorem witness_OnlyResetClearsAFault :
    (∃ t, step { faultedBlock .mx64 with pending := [.reset] } = .next t ∧
      (faultedBlock .mx64).fault = true ∧ t.fault = false) ∧
    ∃ t, exec .init (faultedBlock .mx64) = .next t := ⟨⟨_, rfl, rfl, rfl⟩, _, rfl⟩

theorem witness_ContractCommandsNeverFault :
    (block .ma32 (some 1)).fault = false ∧ Instr.result32.supported (block .ma32 (some 1)).variant = true ∧
    (block .ma32 (some 1)).constructed = true ∧
    (sent (block .ma32 (some 1)) (encode .result32)).pending = .command (encode .result32) 0 :: [] := by
  decide

theorem witness_EveryCommandAnswersOnce :
    (sent (block .ma32 none) 0xFFFF).pending = .command 0xFFFF 0 :: [] ∧
    ∀ rest, (block .ma32 none).pending ≠ .unarbitratedMutation :: rest :=
  ⟨rfl, fun _ h => nomatch h⟩

theorem witness_ResetLeavesTheResetState :
    ({ faultedBlock .ma32h with pending := [.reset] } : State).pending = .reset :: [] := by decide

theorem witness_IdleBlockWaits : (faultedBlock .ma32h).pending = [] := by decide

theorem witness_UnarbitratedMutationIsRefused :
    ({ block .ma32h none with pending := [.unarbitratedMutation, .reset] } : State).pending =
      .unarbitratedMutation :: [.reset] := by decide

/-- A faulted state whose record is sound, and a step from it. -/
theorem witness_StepKeepsFaultRecordSound :
    (faultedBlock .ma64).FaultRecordSound ∧ ∃ t, step (sent (faultedBlock .ma64) 0x1000) = .next t :=
  ⟨⟨fun h => by simp [faultedBlock] at h, fun _ => ⟨.reservedOp, rfl⟩⟩, _, rfl⟩

theorem witness_StepKeepsErrExactlyWhenFaulted :
    (sent (faultedBlock .ma64) 0x1000).ErrExactlyWhenFaulted ∧
    (sent (faultedBlock .ma64) 0x1000).ErrorsComeLast ∧
    ∃ t, step (sent (faultedBlock .ma64) 0x1000) = .next t :=
  ⟨by simp [State.ErrExactlyWhenFaulted, faultedBlock, sent],
    ⟨[.none], 1, rfl, by simp⟩, _, rfl⟩

theorem witness_StepKeepsResponsesFormatted :
    ({ block .ma32h (some 0) with responses := [.val 0x80000000], pending := [.command 0x4000 0] } :
      State).ResponsesFormatted ∧
    ∃ t, step { block .ma32h (some 0) with
      responses := [.val 0x80000000], pending := [.command 0x4000 0] } = .next t :=
  ⟨fun x h => by
    simp only [List.mem_cons, List.not_mem_nil, or_false, Response.val.injEq] at h
    subst h
    exact ⟨fun _ => by decide, fun _ => by decide⟩, _, rfl⟩

theorem witness_StatusReadsBackAndRefusesTheRest :
    readStatus 0x0832 = some ⟨false, true, .notConstructed, .ma64⟩ ∧
    (0x0804#16).extractLsb' 2 2 ≠ 0 ∧ (0x1800#16).extractLsb' 12 4 ≠ 0 ∧
    4 ≤ ((0x0840#16).extractLsb' 4 4).toNat ∧ 6 ≤ ((0x0600#16).extractLsb' 8 3).toNat := by decide

theorem witness_FcmdKeepsTheFirstFaultingWord :
    (∃ t, step (sent (block .ma64 none) 0x4000) = .next t ∧
      (sent (block .ma64 none) 0x4000).fault = false ∧ t.fault = true) ∧
    (∃ t, step (sent (faultedBlock .ma64) 0x4000) = .next t ∧
      (sent (faultedBlock .ma64) 0x4000).fault = true ∧ t.fault = true) ∧
    ∃ t, (block .ma64 none).fcmd = 0 ∧ step (sent (block .ma64 none) 0x1000) = .next t ∧
      t.fault = false :=
  ⟨⟨_, rfl, rfl, rfl⟩, ⟨_, rfl, rfl, rfl⟩, _, rfl, rfl, rfl⟩

theorem witness_LaterArrivalsHaveNoEffect :
    (HostEvent.command 0x1000 (0#32) ≠ .unarbitratedMutation) ∧
    (HostEvent.reset ≠ (.unarbitratedMutation : HostEvent 32)) := by decide

theorem witness_FeedStreamIsAChain :
    (block .mx32 (some 0xFFFFFFFF)).fault = false ∧
    (block .mx32 (some 0xFFFFFFFF)).acc = some 0xFFFFFFFF := by decide

theorem witness_InstancesShareNothing :
    ∃ t, step ([block .ma64 none, sent (block .mx32 none) 0x1000] : Bank)[1] = .next t := ⟨_, rfl⟩

theorem witness_AssemblerRefusesWhatTheVariantLacks :
    (AsmCommand.initSalt 0xFFFFFFFF).assemble .ma32 = some (0x2000, 0xFFFFFFFF) ∧
    (AsmCommand.feed 255).assemble .dso64 = some (0x30FF, 0) := by decide

end Sys2Proof.Tests
end

section
/-! SUPPORT. VARIANT: its table read in both directions, and every step keeps it
(spec/00_scope.md R2, R4). -/

namespace Sys2Proof

/-- Each row of the table of 00_scope.md R2 belongs to one variant. -/
theorem Variant.variant?_params (v : Variant) : v.params.variant? = some v := by
  cases v <;> decide

/-- Only a row of the table is looked up successfully. -/
theorem Params.eq_params_of_variant? {p : Params} {v : Variant} (h : p.variant? = some v) :
    p = v.params := by
  have found := List.find?_some (p := fun u : Variant => decide (u.params = p)) h
  exact (of_decide_eq_true found).symm

namespace Machine

@[simp] theorem bodyOf_variant (i : Instr) (s : State) : (bodyOf i s).variant = s.variant := by
  rcases bodyOf_cases i s with
    ⟨-, e⟩ | ⟨-, e⟩ | ⟨-, -, e⟩ | ⟨b, a, -, -, e⟩ | ⟨a, -, -, e⟩ | ⟨a, -, -, e⟩ <;> simp [e]

theorem performCommand_variant {s t : State} (h : performCommand s = .next t) :
    t.variant = s.variant := by
  rcases performCommand_cases s with
    ⟨-, e⟩ | ⟨-, -, e⟩ | ⟨i, -, -, -, e⟩ | ⟨i, -, -, -, e⟩ <;>
  · rw [e, Host.Outcome.next.injEq] at h
    simp [← h]

theorem step_variant {s t : State} (h : step s = .next t) : t.variant = s.variant := by
  rcases step_cases h with ⟨-, rfl⟩ | ⟨rest, -, rfl⟩ | ⟨c, x, rest, -, hp⟩
  · rfl
  · rfl
  · exact (performCommand_variant hp).trans (s.accept_variant c x rest)

/-- Settles O6: the table by evaluation, the lookup in both directions, and VARIANT kept by every
event. -/
theorem variantIsOneOfSixAndFixed : Obligations.VariantIsOneOfSixAndFixed :=
  ⟨rfl, rfl, rfl, rfl, rfl, rfl, Variant.variant?_params,
    fun _ _ => Params.eq_params_of_variant?, fun _ _ => step_variant⟩

end Machine
end Sys2Proof
end

section
/-! SUPPORT. DSO64 beside MA64 (spec/00_scope.md R3): the relation between a DSO64 and an MA64 block
that agree in every field but VARIANT, which each operation but INIT_SALT keeps. -/

namespace Sys2Proof

/-- Of the five commands only INIT_SALT is supported differently by DSO64 and MA64. -/
theorem Instr.supported_dso64_eq_ma64 {i : Instr} (h : i ≠ .initSalt) :
    i.supported .dso64 = i.supported .ma64 := by
  cases i with
  | initSalt => exact absurd rfl h
  | init | feed | result | result32 => rfl

namespace Machine

/-- A DSO64 block and an MA64 block with the given ports and deliveries that agree in everything a
command can write. -/
def TwinBlocks (c : CmdWord) (x : BitVec 64) (p : List (HostEvent 64)) (d m : State) : Prop :=
  ∃ (a : Option (BitVec 64)) (f : Bool) (k : Cause) (w : CmdWord) (r : List Response),
    d = { variant := .dso64, acc := a, fault := f, cause := k, fcmd := w, cmd := c, salt := x,
          pending := p, responses := r } ∧
    m = { variant := .ma64, acc := a, fault := f, cause := k, fcmd := w, cmd := c, salt := x,
          pending := p, responses := r }

section
variable {c : CmdWord} {x : BitVec 64} {p : List (HostEvent 64)} {d m d' m' : State}

theorem TwinBlocks.respond (h : TwinBlocks c x p d m) (q : Response) :
    TwinBlocks c x p (d.respond q) (m.respond q) := by
  obtain ⟨a, f, k, w, r, rfl, rfl⟩ := h
  exact ⟨a, f, k, w, r ++ [q], rfl, rfl⟩

theorem TwinBlocks.raiseFault (h : TwinBlocks c x p d m) (k : Cause) :
    TwinBlocks c x p (d.raiseFault k) (m.raiseFault k) := by
  obtain ⟨a, f, _, w, r, rfl, rfl⟩ := h
  exact ⟨a, true, k, c, r ++ [.err], rfl, rfl⟩

theorem TwinBlocks.fault_eq (h : TwinBlocks c x p d m) : d.fault = m.fault := by
  obtain ⟨a, f, k, w, r, rfl, rfl⟩ := h
  rfl

theorem TwinBlocks.unlessFaulted (h : TwinBlocks c x p d m) (h' : TwinBlocks c x p d' m') :
    TwinBlocks c x p (d.unlessFaulted d') (m.unlessFaulted m') := by
  cases hf : m.fault with
  | true => simpa [hf, h.fault_eq] using h.respond .err
  | false => simpa [hf, h.fault_eq] using h'

theorem TwinBlocks.checked (h : TwinBlocks c x p d m) (h' : TwinBlocks c x p d' m')
    (supported : Bool) :
    TwinBlocks c x p (d.checked supported d') (m.checked supported m') := by
  cases supported with
  | true => exact h.unlessFaulted h'
  | false => exact h.unlessFaulted (h.raiseFault .unsupportedCommand)

/-- Seed, combine step and formatter are the same functions in both variants. -/
theorem TwinBlocks.bodyOf (h : TwinBlocks c x p d m) {i : Instr} (hi : i ≠ .initSalt) :
    TwinBlocks c x p (bodyOf i d) (bodyOf i m) := by
  obtain ⟨a, f, k, w, r, rfl, rfl⟩ := id h
  cases i with
  | init => exact ⟨some (seed 64), f, k, w, r ++ [.none], rfl, rfl⟩
  | initSalt => exact absurd rfl hi
  | feed b =>
    cases a with
    | none => exact h.raiseFault .notConstructed
    | some v => exact ⟨some (combine .ma64 v b), f, k, w, r ++ [.none], rfl, rfl⟩
  | result =>
    cases a with
    | none => exact h.raiseFault .notConstructed
    | some v => exact h.respond (.val (resultValue .ma64 v))
  | result32 =>
    cases a with
    | none => exact h.raiseFault .notConstructed
    | some v => exact h.respond (.val (result32Value .ma64 v))

/-- Every word but INIT_SALT takes twin blocks to twin blocks. -/
theorem TwinBlocks.performCommand (h : TwinBlocks c x p d m) (hc : decode c ≠ .legal .initSalt) :
    ∃ d' m', TwinBlocks c x p d' m' ∧
      performCommand d = .next d' ∧ performCommand m = .next m' := by
  obtain ⟨hd, hm, hdv, hmv⟩ :
      d.cmd = c ∧ m.cmd = c ∧ d.variant = .dso64 ∧ m.variant = .ma64 := by
    obtain ⟨a, f, k, w, r, rfl, rfl⟩ := h
    exact ⟨rfl, rfl, rfl, rfl⟩
  cases dc : decode c with
  | illegal why =>
    exact ⟨_, _, h.unlessFaulted (h.raiseFault .illegalCommand),
      performCommand_illegal d why (hd ▸ dc), performCommand_illegal m why (hm ▸ dc)⟩
  | legal i =>
    have hi : i ≠ .initSalt := fun e => hc (e ▸ dc)
    refine ⟨_, _, h.checked (h.bodyOf hi) (i.supported .ma64), ?_, ?_⟩
    · rw [performCommand_legal d i (hd ▸ dc), exec_eq_checked, hdv,
        Instr.supported_dso64_eq_ma64 hi]
    · rw [performCommand_legal m i (hm ▸ dc), exec_eq_checked, hmv]

end

/-- Settles O8: blocks that differ in VARIANT alone are twins, and each word but INIT_SALT keeps
them so. -/
theorem defaultSaltOnlyMatchesMa64 : Obligations.DefaultSaltOnlyMatchesMa64 := by
  refine ⟨rfl, fun a f k w c x p r hc => ?_⟩
  have twins : TwinBlocks c x p _ _ := ⟨a, f, k, w, r, rfl, rfl⟩
  obtain ⟨_, _, ⟨a', f', k', w', r', rfl, rfl⟩, hd, hm⟩ := twins.performCommand hc
  exact ⟨a', f', k', w', r', hd, hm⟩

end Machine
end Sys2Proof
end

section
/-! SUPPORT. What a step makes of the next word, case by case in the order of the checks
(spec/60_exceptions.md R131). -/

namespace Sys2Proof.Machine

/-- A command supported by an unfaulted block runs its body. -/
theorem exec_supported {i : Instr} {s : State} (hf : s.fault = false)
    (hs : i.supported s.variant = true) : exec i s = .next (bodyOf i s) := by
  rw [exec_eq_checked, hs, s.checked_supported _ hf]

/-- A faulted block answers every word ERR, and nothing else happens (60_exceptions.md R134). -/
theorem performCommand_faulted {s : State} (hf : s.fault = true) :
    performCommand s = .next (s.respond .err) := by
  cases d : decode s.cmd with
  | legal i => rw [performCommand_legal s i d, exec_eq_checked, s.checked_faulted _ _ hf]
  | illegal why => rw [performCommand_illegal s why d, s.unlessFaulted_faulted _ hf]

theorem step_command_faulted (s : State) {c : CmdWord} {x : BitVec s.variant.width}
    {rest : List (HostEvent s.variant.width)} (p : s.pending = .command c x :: rest)
    (hf : s.fault = true) : step s = .next ((s.accept c x rest).respond .err) :=
  (step_command s c x rest p).trans (performCommand_faulted (s := s.accept c x rest) hf)

/-- An illegal word on an unfaulted block raises ILLEGAL_COMMAND (60_exceptions.md R131). -/
theorem step_illegal_unfaulted (s : State) {c : CmdWord} {x : BitVec s.variant.width}
    {rest : List (HostEvent s.variant.width)} {why : IllegalReason}
    (p : s.pending = .command c x :: rest) (hf : s.fault = false) (d : decode c = .illegal why) :
    step s = .next ((s.accept c x rest).raiseFault .illegalCommand) := by
  rw [step_command s c x rest p, performCommand_accept_illegal s c x rest why d,
    (s.accept c x rest).unlessFaulted_unfaulted _ hf]

/-- Settles O5: the step puts word and salt on the ports and performs the word it decodes there. -/
theorem stepRunsTheDecodedCommand : Obligations.StepRunsTheDecodedCommand := by
  intro s c x rest i p d
  exact (step_command s c x rest p).trans (performCommand_accept_legal s c x rest i d)

end Sys2Proof.Machine
end

section
/-! SUPPORT. What performing a command does to the fault record (spec/60_exceptions.md R130, R133):
nothing, or one fault entry with the cause that the word on the port has. From it, the soundness of the
record and the life of FCMD (spec/10_state.md R23, R24). -/

namespace Sys2Proof.Machine

/-- A body either enters NOT_CONSTRUCTED, or leaves the fault record alone. -/
theorem bodyOf_fault_cases (i : Instr) (s : State) :
    (i.needsAccumulator = true ∧ s.acc = none ∧ bodyOf i s = s.raiseFault .notConstructed) ∨
    ((bodyOf i s).fault = s.fault ∧ (bodyOf i s).cause = s.cause ∧ (bodyOf i s).fcmd = s.fcmd) := by
  rcases bodyOf_cases i s with
    ⟨-, e⟩ | ⟨-, e⟩ | entry | ⟨b, a, -, -, e⟩ | ⟨a, -, -, e⟩ | ⟨a, -, -, e⟩
  case inr.inr.inl => exact .inl entry
  all_goals exact .inr (by simp [e])

/-- Everything performing a command can do to the fault record: a faulted block answers ERR, an
unfaulted one keeps its record or enters a fault that the word on the port explains. -/
theorem performCommand_fault_cases {s t : State} (h : performCommand s = .next t) :
    (s.fault = true ∧ t = s.respond .err) ∨
    (s.fault = false ∧ t.fault = false ∧ t.cause = s.cause ∧ t.fcmd = s.fcmd) ∨
    (s.fault = false ∧ ∃ k : Cause, k.explains s.variant s.constructed s.cmd ∧
      t = s.raiseFault k) := by
  rcases performCommand_cases s with
    ⟨hf, e⟩ | ⟨hf, illegal, e⟩ | ⟨i, hf, d, u, e⟩ | ⟨i, hf, d, u, e⟩ <;>
  obtain rfl := Host.Outcome.next.inj (e.symm.trans h)
  · exact .inl ⟨hf, rfl⟩
  · exact .inr (.inr ⟨hf, .illegalCommand, illegal, rfl⟩)
  · exact .inr (.inr ⟨hf, .unsupportedCommand, ⟨i, d, u⟩, rfl⟩)
  · rcases bodyOf_fault_cases i s with ⟨reads, unset, entry⟩ | ⟨fault, record⟩
    · have explained : Cause.notConstructed.explains s.variant s.constructed s.cmd :=
        ⟨i, d, u, reads, by simp [State.constructed, unset]⟩
      exact .inr (.inr ⟨hf, .notConstructed, explained, entry⟩)
    · exact .inr (.inl ⟨hf, fault.trans hf, record⟩)

/-! ### The record is sound -/

theorem State.faultRecordSound_of_unfaulted {s : State} (hf : s.fault = false)
    (hc : s.cause = .none) (hw : s.fcmd = 0) : s.FaultRecordSound :=
  ⟨fun _ => ⟨hc, hw⟩, fun faulted => by simp [hf] at faulted⟩

theorem State.faultRecordSound_raiseFault {s : State} {k : Cause}
    (h : k.explains s.variant s.constructed s.cmd) : (s.raiseFault k).FaultRecordSound :=
  ⟨fun unfaulted => by simp at unfaulted, fun _ => h⟩

theorem performCommand_keeps_faultRecordSound {s t : State} (sound : s.FaultRecordSound)
    (h : performCommand s = .next t) : t.FaultRecordSound := by
  rcases performCommand_fault_cases h with
    ⟨-, rfl⟩ | ⟨hs, ht, hc, hw⟩ | ⟨-, k, explained, rfl⟩
  · exact sound
  · obtain ⟨cause, fcmd⟩ := sound.1 hs
    exact State.faultRecordSound_of_unfaulted ht (hc.trans cause) (hw.trans fcmd)
  · exact State.faultRecordSound_raiseFault explained

/-- Settles O38: a reset clears the record, and performing a command keeps it sound. -/
theorem stepKeepsFaultRecordSound : Obligations.StepKeepsFaultRecordSound := by
  intro s t sound h
  rcases step_cases h with ⟨-, rfl⟩ | ⟨rest, -, rfl⟩ | ⟨c, x, rest, -, hp⟩
  · exact sound
  · exact State.faultRecordSound_of_unfaulted rfl rfl rfl
  · have accepted : (s.accept c x rest).FaultRecordSound := sound
    exact performCommand_keeps_faultRecordSound accepted hp

/-! ### FCMD -/

/-- Everything a step can do to FAULT and FCMD: nothing, fault entry with the word of the command
performed, or reset. -/
theorem step_fcmd_cases {s t : State} (h : step s = .next t) :
    (t.fault = s.fault ∧ t.fcmd = s.fcmd) ∨
    (s.fault = false ∧ t.fault = true ∧ ∃ x rest, s.pending = .command t.fcmd x :: rest) ∨
    ((∃ rest, s.pending = .reset :: rest) ∧ t.fault = false ∧ t.fcmd = 0) := by
  rcases step_cases h with ⟨-, rfl⟩ | ⟨rest, p, rfl⟩ | ⟨c, x, rest, p, hp⟩
  · exact .inl ⟨rfl, rfl⟩
  · exact .inr (.inr ⟨⟨rest, p⟩, rfl, rfl⟩)
  · rcases performCommand_fault_cases hp with
      ⟨-, rfl⟩ | ⟨hs, ht, -, hw⟩ | ⟨hs, k, -, rfl⟩
    · exact .inl ⟨rfl, rfl⟩
    · exact .inl ⟨ht.trans hs.symm, hw⟩
    · exact .inr (.inl ⟨hs, rfl, x, rest, p⟩)

/-- Fault entry records the word of the command performed. -/
theorem step_records_faulting_word {s t : State} (h : step s = .next t) (hs : s.fault = false)
    (ht : t.fault = true) : ∃ x rest, s.pending = .command t.fcmd x :: rest := by
  rcases step_fcmd_cases h with ⟨fault, -⟩ | ⟨-, -, word⟩ | ⟨-, clear, -⟩
  · simp [fault, hs] at ht
  · exact word
  · simp [clear] at ht

/-- While the block stays faulted FCMD is not overwritten. -/
theorem step_faulted_keeps_fcmd {s t : State} (h : step s = .next t) (hs : s.fault = true)
    (ht : t.fault = true) : t.fcmd = s.fcmd := by
  rcases step_fcmd_cases h with ⟨-, fcmd⟩ | ⟨unfaulted, -, -⟩ | ⟨-, clear, -⟩
  · exact fcmd
  · simp [unfaulted] at hs
  · simp [clear] at ht

theorem step_keeps_unfaulted_fcmd_zero {s t : State} (zero : s.fault = false → s.fcmd = 0)
    (h : step s = .next t) (ht : t.fault = false) : t.fcmd = 0 := by
  rcases step_fcmd_cases h with ⟨fault, fcmd⟩ | ⟨-, faulted, -⟩ | ⟨-, -, fcmd⟩
  · exact fcmd.trans (zero (fault.symm.trans ht))
  · simp [faulted] at ht
  · exact fcmd

/-- Settles O44: each part is read off the three things a step can do to FAULT and FCMD. -/
theorem fcmdKeepsTheFirstFaultingWord : Obligations.FcmdKeepsTheFirstFaultingWord := by
  refine ⟨fun s t h => ?_, fun _ _ => step_records_faulting_word,
    fun _ _ => step_faulted_keeps_fcmd, fun _ _ => step_keeps_unfaulted_fcmd_zero,
    fun _ => ⟨rfl, rfl⟩, fun _ => rfl⟩
  rcases step_fcmd_cases h with ⟨-, fcmd⟩ | entry | ⟨reset, -, fcmd⟩
  · exact .inl fcmd
  · exact .inr (.inl entry)
  · exact .inr (.inr ⟨reset, fcmd⟩)

/-- Settles O41: the reset state has an empty record of faults and of responses. -/
theorem resetMeetsTheInvariants : Obligations.ResetMeetsTheInvariants := by
  intro v
  refine ⟨State.faultRecordSound_of_unfaulted rfl rfl rfl, ?_, ⟨[], 0, rfl, List.not_mem_nil⟩, ?_, rfl⟩
  · simp [State.ErrExactlyWhenFaulted]
  · simp [State.ResponsesFormatted]

end Sys2Proof.Machine
end

section
/-! SUPPORT. The status output (spec/10_state.md R23): the fields of a STATUS word, read off its layout,
and reading it back (spec/93_implementation_defined.md U7). -/

namespace Sys2Proof

theorem Variant.variantId_lt (v : Variant) : v.variantId.toNat < 6 := by
  cases v <;> decide

namespace Machine

/-! ### The layout -/

section
variable (f : StatusFields)

theorem StatusFields.word_constructed : f.word.getLsbD 0 = f.constructed := by
  simp only [StatusFields.word, BitVec.getLsbD_append]
  simp

theorem StatusFields.word_fault : f.word.getLsbD 1 = f.fault := by
  simp only [StatusFields.word, BitVec.getLsbD_append]
  simp

@[simp] theorem StatusFields.word_lowReserved : f.word.extractLsb' 2 2 = 0 := by
  simp only [StatusFields.word, BitVec.extractLsb'_append_eq_ite]
  simp

@[simp] theorem StatusFields.word_cause : f.word.extractLsb' 4 4 = f.cause.code := by
  simp only [StatusFields.word, BitVec.extractLsb'_append_eq_ite]
  simp

@[simp] theorem StatusFields.word_variantId :
    f.word.extractLsb' 8 3 = f.variant.variantId := by
  simp only [StatusFields.word, BitVec.extractLsb'_append_eq_ite]
  simp

theorem StatusFields.word_width64 : f.word.getLsbD 11 = f.variant.width64 := by
  simp only [StatusFields.word, BitVec.getLsbD_append]
  simp

@[simp] theorem StatusFields.word_highReserved : f.word.extractLsb' 12 4 = 0 := by
  simp only [StatusFields.word, BitVec.extractLsb'_append_eq_ite]
  simp

end

/-- Settles O42: STATUS is the word of the block's fields, and each field stands where the layout
puts it. -/
theorem statusShowsItsFields : Obligations.StatusShowsItsFields := by
  intro s
  have width64 : s.status.getLsbD 11 = true ↔ s.variant.width = 64 := by
    rw [State.status, StatusFields.word_width64]
    exact beq_iff_eq
  refine ⟨s.statusFields.word_constructed, s.statusFields.word_fault,
    s.statusFields.word_lowReserved, ?_, ?_, width64, s.statusFields.word_highReserved⟩
  · rw [State.status, StatusFields.word_cause, State.statusFields]
    cases s.cause <;> rfl
  · rw [State.status, StatusFields.word_variantId, State.statusFields]
    cases s.variant <;> rfl

/-! ### Reading it back -/

@[simp] theorem causeOfCode_code (k : Cause) : causeOfCode k.code = some k := by
  cases k <;> rfl

@[simp] theorem variantOfId_variantId (v : Variant) : variantOfId v.variantId = some v := by
  cases v <;> rfl

theorem Cause.code_lt (k : Cause) : k.code.toNat < 4 := by
  cases k <;> decide

theorem fieldsOf_word (f : StatusFields) : fieldsOf f.word f.cause f.variant = f := by
  rw [fieldsOf, f.word_constructed, f.word_fault]

theorem readStatus_word (f : StatusFields) : readStatus f.word = some f := by
  simp [readStatus, fieldsOf_word]

theorem word_of_readStatus {r : BitVec 16} {f : StatusFields} (h : readStatus r = some f) :
    f.word = r := by
  unfold readStatus at h
  split at h
  · split_ifs at h with same
    obtain rfl := Option.some.inj h
    exact same
  · cases h

/-- Settles O43: what is read is the word of its own fields, and no such word has a reserved bit set or
a code that is never produced. -/
theorem statusReadsBackAndRefusesTheRest : Obligations.StatusReadsBackAndRefusesTheRest := by
  refine ⟨fun s => readStatus_word s.statusFields, fun _ _ => word_of_readStatus,
    fun r never => ?_⟩
  cases h : readStatus r with
  | none => rfl
  | some f =>
    obtain rfl := word_of_readStatus h
    have cause := f.cause.code_lt
    have variant := f.variant.variantId_lt
    simp only [StatusFields.word_lowReserved, StatusFields.word_highReserved,
      StatusFields.word_cause, StatusFields.word_variantId, ne_eq, not_true_eq_false,
      false_or] at never
    omega

end Machine
end Sys2Proof
end

section
/-! SUPPORT. What a command writes and what it leaves (spec/10_state.md R20 to R22): the frame of all
five commands, and what follows from it for CONSTRUCTED. -/

namespace Sys2Proof.Machine

/-- What a command may do to STATE: keep it, or write it as INIT, INIT_SALT or FEED does
(10_state.md R20, R21). -/
def AccWritten (i : Instr) (s : State) (a : Option (BitVec s.variant.width)) : Prop :=
  a = s.acc ∨ (i = .init ∧ a = some 5381) ∨ (i = .initSalt ∧ a = some s.salt) ∨
    ∃ b x, i = .feed b ∧ s.acc = some x ∧ a = some (combine s.variant x b)

/-- `t` is `s` with one response more, with STATE written as `i` may, and with the fault record kept or
entered (10_state.md R21; 60_exceptions.md R133). -/
def CommandFrame (i : Instr) (s t : State) : Prop :=
  ∃ (a : Option (BitVec s.variant.width)) (f : Bool) (k : Cause) (w : CmdWord) (r : Response),
    t = { s with acc := a, fault := f, cause := k, fcmd := w, responses := s.responses ++ [r] } ∧
    AccWritten i s a ∧
    ((f = s.fault ∧ k = s.cause ∧ w = s.fcmd) ∨
      (s.fault = false ∧ f = true ∧ k ≠ .none ∧ w = s.cmd ∧ a = s.acc ∧ r = .err))

theorem CommandFrame.of_respond (i : Instr) (s : State) (r : Response) :
    CommandFrame i s (s.respond r) :=
  ⟨s.acc, s.fault, s.cause, s.fcmd, r, rfl, .inl rfl, .inl ⟨rfl, rfl, rfl⟩⟩

theorem CommandFrame.of_writeAcc_respond {i : Instr} {s : State} {a : BitVec s.variant.width}
    (h : AccWritten i s (some a)) (r : Response) : CommandFrame i s ((s.writeAcc a).respond r) :=
  ⟨some a, s.fault, s.cause, s.fcmd, r, rfl, h, .inl ⟨rfl, rfl, rfl⟩⟩

theorem CommandFrame.of_raiseFault (i : Instr) {s : State} {k : Cause} (hf : s.fault = false)
    (hk : k ≠ .none) : CommandFrame i s (s.raiseFault k) :=
  ⟨s.acc, true, k, s.cmd, .err, rfl, .inl rfl, .inr ⟨hf, rfl, hk, rfl, rfl, rfl⟩⟩

theorem bodyOf_commandFrame (i : Instr) {s : State} (hf : s.fault = false) :
    CommandFrame i s (bodyOf i s) := by
  rcases bodyOf_cases i s with
    ⟨hi, e⟩ | ⟨hi, e⟩ | ⟨-, -, e⟩ | ⟨b, a, hi, ha, e⟩ | ⟨a, -, -, e⟩ | ⟨a, -, -, e⟩ <;> rw [e]
  · exact .of_writeAcc_respond (.inr (.inl ⟨hi, rfl⟩)) .none
  · exact .of_writeAcc_respond (.inr (.inr (.inl ⟨hi, rfl⟩))) .none
  · exact .of_raiseFault i hf (by decide)
  · exact .of_writeAcc_respond (.inr (.inr (.inr ⟨b, a, hi, ha, rfl⟩))) .none
  · exact .of_respond i s _
  · exact .of_respond i s _

/-- Every command answers a next state within its frame. -/
theorem exec_commandFrame (i : Instr) (s : State) : ∃ t, exec i s = .next t ∧ CommandFrame i s t := by
  refine ⟨_, exec_eq_checked i s, ?_⟩
  rcases s.checked_cases (bodyOf i s) (i.supported s.variant) with
    ⟨-, e⟩ | ⟨hf, -, e⟩ | ⟨hf, -, e⟩ <;> rw [e]
  · exact .of_respond i s .err
  · exact .of_raiseFault i hf (by decide)
  · exact bodyOf_commandFrame i hf

/-- Settles O24: the frame, clause for clause. -/
theorem commandsChangeOnlyWhatTheirRulesName : Obligations.CommandsChangeOnlyWhatTheirRulesName := by
  intro i s
  obtain ⟨t, h, a, f, k, w, r, rfl, frame⟩ := exec_commandFrame i s
  exact ⟨a, f, k, w, r, h, frame⟩

/-! ### CONSTRUCTED -/

theorem State.constructed_iff (s : State) : s.constructed = true ↔ ∃ a, s.acc = some a :=
  Option.isSome_iff_exists

/-- A command keeps CONSTRUCTED, or is a construction and sets it. -/
theorem exec_constructed_cases {i : Instr} {s t : State} (h : exec i s = .next t) :
    t.constructed = s.constructed ∨ (t.constructed = true ∧ (i = .init ∨ i = .initSalt)) := by
  obtain ⟨_, h', a, f, k, w, r, rfl, written, -⟩ := exec_commandFrame i s
  obtain rfl := Host.Outcome.next.inj (h'.symm.trans h)
  rcases written with rfl | ⟨hi, rfl⟩ | ⟨hi, rfl⟩ | ⟨b, x, -, hx, rfl⟩
  · exact .inl rfl
  · exact .inr ⟨rfl, .inl hi⟩
  · exact .inr ⟨rfl, .inr hi⟩
  · exact .inl (by simp [State.constructed, hx])

theorem exec_keeps_constructed {i : Instr} {s t : State} (h : exec i s = .next t)
    (hs : s.constructed = true) : t.constructed = true := by
  rcases exec_constructed_cases h with kept | ⟨set, -⟩
  · exact kept.trans hs
  · exact set

theorem performCommand_keeps_constructed {s t : State} (h : performCommand s = .next t)
    (hs : s.constructed = true) : t.constructed = true := by
  cases d : decode s.cmd with
  | legal i => exact exec_keeps_constructed ((performCommand_legal s i d).symm.trans h) hs
  | illegal why =>
    obtain rfl := Host.Outcome.next.inj ((performCommand_illegal s why d).symm.trans h)
    cases hf : s.fault <;> simp [hf, hs]

/-- A step that clears CONSTRUCTED takes a reset. -/
theorem step_clears_constructed {s t : State} (h : step s = .next t) (hs : s.constructed = true)
    (ht : t.constructed = false) : ∃ rest, s.pending = .reset :: rest := by
  rcases step_cases h with ⟨-, rfl⟩ | ⟨rest, p, -⟩ | ⟨c, x, rest, -, hp⟩
  · simp [hs] at ht
  · exact ⟨rest, p⟩
  · have kept : t.constructed = true :=
      performCommand_keeps_constructed hp ((s.accept_constructed c x rest).trans hs)
    simp [kept] at ht

theorem bodyOf_construction {i : Instr} (s : State) (h : i = .init ∨ i = .initSalt) :
    (bodyOf i s).constructed = true := by
  rcases h with rfl | rfl <;> rfl

/-- The body of a command that reads STATE enters a fault exactly when STATE holds no value. -/
theorem bodyOf_fault_iff {i : Instr} {s : State} (hi : i.needsAccumulator = true)
    (hf : s.fault = false) : (bodyOf i s).fault = true ↔ s.constructed = false := by
  rcases bodyOf_cases i s with
    ⟨rfl, -⟩ | ⟨rfl, -⟩ | ⟨-, ha, e⟩ | ⟨b, a, -, ha, e⟩ | ⟨a, -, ha, e⟩ | ⟨a, -, ha, e⟩
  · exact absurd hi (by decide)
  · exact absurd hi (by decide)
  all_goals simp [e, hf, State.constructed, ha]

/-- Settles O25: STATUS shows CONSTRUCTED, a command keeps it or is a construction, and a step clears
it by a reset alone. -/
theorem constructedSetOnlyByConstruction : Obligations.ConstructedSetOnlyByConstruction := by
  refine ⟨fun s => ⟨s.constructed_iff, s.statusFields.word_constructed⟩,
    fun i s t => exec_keeps_constructed, fun i s t h hs ht => ?_, fun i s t hi h hf u => ?_,
    fun s t => step_clears_constructed, fun s t rest p h => ?_, fun i s hi hf u => ?_⟩
  · rcases exec_constructed_cases h with kept | ⟨-, construction⟩
    · simp [ht, hs] at kept
    · exact construction
  · obtain rfl := Host.Outcome.next.inj ((exec_supported hf u).symm.trans h)
    exact bodyOf_construction s hi
  · obtain rfl := Host.Outcome.next.inj ((step_reset_event s rest p).symm.trans h)
    rfl
  · have reads : i.needsAccumulator = true := by
      rcases hi with rfl | rfl | ⟨b, rfl⟩ <;> rfl
    exact ⟨bodyOf i s, exec_supported hf u, bodyOf_fault_iff reads hf⟩

end Sys2Proof.Machine
end

section
/-! SUPPORT. The SALT bus (spec/10_state.md R27): the relation between two blocks that differ in the
value on it alone, which every command but INIT_SALT keeps. -/

namespace Sys2Proof.Machine

/-- What two runs of a command from `s` end in, the second with `x` on the SALT bus: `t` and `t'` are
`s` with the same fields written, and differ in the SALT bus alone. -/
def SaltTwins (s : State) (x : BitVec s.variant.width) (t t' : State) : Prop :=
  ∃ (a : Option (BitVec s.variant.width)) (f : Bool) (k : Cause) (w : CmdWord) (r : List Response),
    t = { s with acc := a, fault := f, cause := k, fcmd := w, responses := r } ∧
    t' = { s with salt := x, acc := a, fault := f, cause := k, fcmd := w, responses := r }

theorem SaltTwins.of_respond (s : State) (x : BitVec s.variant.width) (q : Response) :
    SaltTwins s x (s.respond q) (State.respond { s with salt := x } q) :=
  ⟨s.acc, s.fault, s.cause, s.fcmd, s.responses ++ [q], rfl, rfl⟩

theorem SaltTwins.of_raiseFault (s : State) (x : BitVec s.variant.width) (k : Cause) :
    SaltTwins s x (s.raiseFault k) (State.raiseFault { s with salt := x } k) :=
  ⟨s.acc, true, k, s.cmd, s.responses ++ [.err], rfl, rfl⟩

theorem SaltTwins.of_writeAcc_respond (s : State) (x a : BitVec s.variant.width) (q : Response) :
    SaltTwins s x ((s.writeAcc a).respond q)
      ((State.writeAcc { s with salt := x } a).respond q) :=
  ⟨some a, s.fault, s.cause, s.fcmd, s.responses ++ [q], rfl, rfl⟩

theorem SaltTwins.checked {s t t' : State} {x : BitVec s.variant.width} (h : SaltTwins s x t t')
    (supported : Bool) :
    SaltTwins s x (s.checked supported t) (State.checked { s with salt := x } supported t') := by
  rcases s.checked_cases t supported with ⟨hf, e⟩ | ⟨hf, rfl, e⟩ | ⟨hf, rfl, e⟩ <;> rw [e]
  · rw [State.checked_faulted { s with salt := x } t' supported hf]
    exact .of_respond s x .err
  · rw [State.checked_unsupported { s with salt := x } t' hf]
    exact .of_raiseFault s x .unsupportedCommand
  · rw [State.checked_supported { s with salt := x } t' hf]
    exact h

/-- Reading STATE gives both blocks the same value, or NOT_CONSTRUCTED in both. -/
theorem SaltTwins.of_onAccumulator {s : State} {x : BitVec s.variant.width}
    {body body' : BitVec s.variant.width → State} (h : ∀ a, SaltTwins s x (body a) (body' a)) :
    SaltTwins s x (s.onAccumulator body) (State.onAccumulator { s with salt := x } body') := by
  rcases s.onAccumulator_cases body with ⟨ha, e⟩ | ⟨a, ha, e⟩ <;> rw [e]
  · rw [State.onAccumulator_none { s with salt := x } body' ha]
    exact .of_raiseFault s x .notConstructed
  · rw [State.onAccumulator_some { s with salt := x } body' a ha]
    exact h a

theorem SaltTwins.of_bodyOf {i : Instr} (hi : i ≠ .initSalt) (s : State)
    (x : BitVec s.variant.width) :
    SaltTwins s x (bodyOf i s) (bodyOf i { s with salt := x }) := by
  cases i with
  | init => exact .of_writeAcc_respond s x (seed s.variant.width) .none
  | initSalt => exact absurd rfl hi
  | feed b => exact .of_onAccumulator fun a => .of_writeAcc_respond s x (combine s.variant a b) .none
  | result => exact .of_onAccumulator fun a => .of_respond s x (.val (resultValue s.variant a))
  | result32 => exact .of_onAccumulator fun a => .of_respond s x (.val (result32Value s.variant a))

/-- What an illegal word writes does not depend on the SALT bus. -/
theorem step_illegal_salt_ignored (s : State) {c : CmdWord} {why : IllegalReason}
    (x y : BitVec s.variant.width) (rest : List (HostEvent s.variant.width))
    (d : decode c = .illegal why) :
    ∃ (f : Bool) (k : Cause) (w : CmdWord) (r : List Response),
      step { s with pending := .command c x :: rest } = .next { s with
        cmd := c, salt := x, pending := rest, fault := f, cause := k, fcmd := w, responses := r } ∧
      step { s with pending := .command c y :: rest } = .next { s with
        cmd := c, salt := y, pending := rest, fault := f, cause := k, fcmd := w, responses := r } := by
  rcases Bool.eq_false_or_eq_true s.fault with hf | hf
  · exact ⟨s.fault, s.cause, s.fcmd, s.responses ++ [Response.err],
      step_command_faulted { s with pending := .command c x :: rest } rfl hf,
      step_command_faulted { s with pending := .command c y :: rest } rfl hf⟩
  · exact ⟨true, .illegalCommand, c, s.responses ++ [Response.err],
      step_illegal_unfaulted { s with pending := .command c x :: rest } rfl hf d,
      step_illegal_unfaulted { s with pending := .command c y :: rest } rfl hf d⟩

/-- Settles O23: blocks that differ on the SALT bus alone stay so under every other command and every
illegal word, and INIT_SALT writes whatever stands there. -/
theorem saltIsSampledOnlyByInitSalt : Obligations.SaltIsSampledOnlyByInitSalt := by
  refine ⟨fun i s x hi => ?_, fun s c x y rest ⟨why, d⟩ => step_illegal_salt_ignored s x y rest d,
    fun s x hf ok => ?_⟩
  · obtain ⟨a, f, k, w, r, e, e'⟩ :=
      (SaltTwins.of_bodyOf hi s x).checked (i.supported s.variant)
    exact ⟨a, f, k, w, r, (exec_eq_checked i s).trans (congrArg _ e),
      (exec_eq_checked i { s with salt := x }).trans (congrArg _ e')⟩
  · exact exec_supported (i := .initSalt) (s := { s with salt := x }) hf ok

end Sys2Proof.Machine
end

section
/-! SUPPORT. What is yet to come (spec/20_memory.md R47, R49, R50): what a command writes does not depend
on the events pending behind it, and unarbitrated mutation is the one event that is refused. -/

namespace Sys2Proof.Machine

/-- `t p`, what an operation makes of `s` with `p` pending, is `s` with `p` pending and with fields
written that do not depend on `p`. -/
def PendingIgnored (s : State) (t : List (HostEvent s.variant.width) → State) : Prop :=
  ∃ (a : Option (BitVec s.variant.width)) (f : Bool) (k : Cause) (w : CmdWord) (r : List Response),
    ∀ p, t p = { s with acc := a, fault := f, cause := k, fcmd := w, responses := r, pending := p }

theorem PendingIgnored.of_respond (s : State) (q : Response) :
    PendingIgnored s fun p => State.respond { s with pending := p } q :=
  ⟨s.acc, s.fault, s.cause, s.fcmd, s.responses ++ [q], fun _ => rfl⟩

theorem PendingIgnored.of_raiseFault (s : State) (k : Cause) :
    PendingIgnored s fun p => State.raiseFault { s with pending := p } k :=
  ⟨s.acc, true, k, s.cmd, s.responses ++ [.err], fun _ => rfl⟩

theorem PendingIgnored.of_writeAcc_respond (s : State) (a : BitVec s.variant.width) (q : Response) :
    PendingIgnored s fun p => (State.writeAcc { s with pending := p } a).respond q :=
  ⟨some a, s.fault, s.cause, s.fcmd, s.responses ++ [q], fun _ => rfl⟩

section
variable {s : State}

theorem PendingIgnored.congr {t t' : List (HostEvent s.variant.width) → State}
    (h : PendingIgnored s t) (e : ∀ p, t' p = t p) : PendingIgnored s t' :=
  (funext e : t' = t) ▸ h

theorem PendingIgnored.unlessFaulted {t : List (HostEvent s.variant.width) → State}
    (h : PendingIgnored s t) :
    PendingIgnored s fun p => State.unlessFaulted { s with pending := p } (t p) := by
  rcases Bool.eq_false_or_eq_true s.fault with hf | hf
  · exact (of_respond s .err).congr fun p =>
      State.unlessFaulted_faulted { s with pending := p } (t p) hf
  · exact h.congr fun p => State.unlessFaulted_unfaulted { s with pending := p } (t p) hf

theorem PendingIgnored.checked {t : List (HostEvent s.variant.width) → State}
    (h : PendingIgnored s t) (supported : Bool) :
    PendingIgnored s fun p => State.checked { s with pending := p } supported (t p) := by
  cases supported with
  | true => exact h.unlessFaulted
  | false => exact (of_raiseFault s .unsupportedCommand).unlessFaulted

theorem PendingIgnored.of_onAccumulator
    {body : List (HostEvent s.variant.width) → BitVec s.variant.width → State}
    (h : ∀ a, PendingIgnored s fun p => body p a) :
    PendingIgnored s fun p => State.onAccumulator { s with pending := p } (body p) := by
  rcases Option.eq_none_or_eq_some s.acc with ha | ⟨a, ha⟩
  · exact (of_raiseFault s .notConstructed).congr fun p =>
      State.onAccumulator_none { s with pending := p } (body p) ha
  · exact (h a).congr fun p => State.onAccumulator_some { s with pending := p } (body p) a ha

end

theorem PendingIgnored.of_bodyOf (i : Instr) (s : State) :
    PendingIgnored s fun p => bodyOf i { s with pending := p } := by
  cases i with
  | init => exact of_writeAcc_respond s (seed s.variant.width) .none
  | initSalt => exact of_writeAcc_respond s s.salt .none
  | feed b => exact of_onAccumulator fun a => of_writeAcc_respond s (combine s.variant a b) .none
  | result => exact of_onAccumulator fun a => of_respond s (.val (resultValue s.variant a))
  | result32 => exact of_onAccumulator fun a => of_respond s (.val (result32Value s.variant a))

/-- The word on the port writes the same, whatever is pending. -/
theorem performCommand_pending_ignored (s : State) :
    ∃ t, PendingIgnored s t ∧ ∀ p, performCommand { s with pending := p } = .next (t p) := by
  cases d : decode s.cmd with
  | illegal why =>
    exact ⟨_, (PendingIgnored.of_raiseFault s .illegalCommand).unlessFaulted,
      fun p => performCommand_illegal { s with pending := p } why d⟩
  | legal i =>
    exact ⟨_, (PendingIgnored.of_bodyOf i s).checked (i.supported s.variant),
      fun p => (performCommand_legal { s with pending := p } i d).trans (exec_eq_checked i _)⟩

/-- Settles O45: a command is taken onto the ports and performed without regard to what is pending,
and a reset writes its fixed values. -/
theorem laterArrivalsHaveNoEffect : Obligations.LaterArrivalsHaveNoEffect := by
  intro s e p q accepted
  cases e with
  | command c x =>
    obtain ⟨t, ⟨a, f, k, w, r, ht⟩, performed⟩ :=
      performCommand_pending_ignored { s with cmd := c, salt := x }
    have stepped (l : List (HostEvent s.variant.width)) :
        step { s with pending := .command c x :: l } = .next (t l) :=
      (step_command { s with pending := .command c x :: l } c x l rfl).trans (performed l)
    exact ⟨a, f, k, w, c, x, r, (stepped p).trans (congrArg _ (ht p)),
      (stepped q).trans (congrArg _ (ht q))⟩
  | reset =>
    exact ⟨none, false, .none, 0, s.cmd, s.salt, [],
      step_reset_event { s with pending := .reset :: p } p rfl,
      step_reset_event { s with pending := .reset :: q } q rfl⟩
  | unarbitratedMutation => exact absurd rfl accepted

/-- Settles O37: the step takes the event, and the event has no meaning. -/
theorem unarbitratedMutationIsRefused : Obligations.UnarbitratedMutationIsRefused := by
  intro s rest p
  simp [step, p, onEvent]

end Sys2Proof.Machine
end

section
/-! SUPPORT. RESULT followed by INIT_SALT (spec/20_memory.md R52): without the forced bit the formatter
loses nothing, and with it bit 31 is lost. -/

namespace Sys2Proof.Machine

theorem format_of_unforced {v : Variant} (h : v.hbf = false) (a : BitVec v.width) :
    format v a = a := by
  simp [format, h]

theorem format_ma32h (a : BitVec 32) : format .ma32h a = a ||| 0x80000000#32 := by
  simp [format, Variant.hbf, hbit]

/-- Without the forced bit the low W bits of RESULT's value are STATE. -/
theorem setWidth_resultValue {v : Variant} (h : v.hbf = false) (a : BitVec v.width) :
    (resultValue v a).setWidth v.width = a := by
  have fits : v.width ≤ 64 := by cases v <;> decide
  rw [resultValue, format_of_unforced h, BitVec.setWidth_setWidth_of_le a fits,
    BitVec.setWidth_eq]

/-- Setting bits hides whether they were flipped before. -/
theorem xor_or_mask {w : Nat} (a mask : BitVec w) : a ^^^ mask ||| mask = a ||| mask := by
  ext n
  simp only [BitVec.getElem_or, BitVec.getElem_xor]
  cases a[n] <;> cases mask[n] <;> rfl

theorem exec_result {s : State} {a : BitVec s.variant.width} (hf : s.fault = false)
    (ha : s.acc = some a) :
    exec .result s = .next (s.respond (.val (resultValue s.variant a))) :=
  (exec_supported hf rfl).trans (congrArg _ (s.onAccumulator_some _ a ha))

/-- Settles O27: INIT_SALT writes the low W bits of the value RESULT answered, which are STATE where no
bit is forced; in MA32H both values leave the formatter with bit 31 set. -/
theorem resultRebuildsTheAccumulator : Obligations.ResultRebuildsTheAccumulator := by
  refine ⟨fun s a hf ha salted unforced =>
    ⟨resultValue s.variant a, exec_result hf ha, fun old => ?_⟩, fun a => ?_⟩
  · rw [setWidth_resultValue unforced]
    exact exec_supported (i := .initSalt) (s := { s with acc := old, salt := a }) hf salted
  · rw [resultValue, resultValue, format_ma32h, format_ma32h, xor_or_mask]

end Sys2Proof.Machine
end

section
/-! SUPPORT. Several instances side by side (spec/20_memory.md R53; spec/60_exceptions.md R140). -/

namespace Sys2Proof.Machine

/-- A step of block `k` of the bank replaces it by its own next state. -/
theorem Bank.stepAt_eq_set {bank : Bank} {k : Fin bank.length} {t : State}
    (h : step bank[k] = .next t) : bank.stepAt k = .next (bank.set k t) := by
  rw [Bank.stepAt, h]

/-- Settles O48: replacing one place of the list keeps its length and every other place. -/
theorem instancesShareNothing : Obligations.InstancesShareNothing := by
  intro bank k t h
  exact ⟨bank.set k t, Bank.stepAt_eq_set h, List.length_set,
    List.getElem?_set_self k.isLt, fun _ other => List.getElem?_set_ne other.symm⟩

end Sys2Proof.Machine
end

section
/-! SUPPORT. The command words (spec/30_encoding.md R60 to R66): a word is its three fields joined, a
command is an operation selector with an immediate, and so decoding and encoding are inverse. -/

namespace Sys2Proof

/-- The operation selector of a command (30_encoding.md R62). -/
def Instr.selector : Instr → BitVec 4
  | .init => 0x1
  | .initSalt => 0x2
  | .feed _ => 0x3
  | .result => 0x4
  | .result32 => 0x5

/-- What stands in `imm8` of a command's word: FEED's byte, and 0 for the others (30_encoding.md R60). -/
def Instr.immediate : Instr → Byte
  | .feed b => b
  | .init => 0
  | .initSalt => 0
  | .result => 0
  | .result32 => 0

theorem encode_eq_append (i : Instr) : encode i = i.selector ++ 0#4 ++ i.immediate := by
  cases i <;> rfl

@[simp] theorem opField_append (o r : BitVec 4) (b : Byte) : opField (o ++ r ++ b) = o := by
  rw [opField, BitVec.extractLsb'_append_eq_of_le (by decide)]
  exact BitVec.extractLsb'_append_eq_left

@[simp] theorem rsvField_append (o r : BitVec 4) (b : Byte) : rsvField (o ++ r ++ b) = r := by
  rw [rsvField, BitVec.extractLsb'_append_eq_of_le (by decide)]
  exact BitVec.extractLsb'_append_eq_right

@[simp] theorem immField_append (o r : BitVec 4) (b : Byte) : immField (o ++ r ++ b) = b :=
  BitVec.extractLsb'_append_eq_right

/-- The three fields of R60 cover the word. -/
theorem append_fields (c : CmdWord) : opField c ++ rsvField c ++ immField c = c := by
  rw [opField, rsvField, BitVec.extractLsb'_append_extractLsb'_eq_extractLsb' (by decide), immField,
    BitVec.extractLsb'_append_extractLsb'_eq_extractLsb' (by decide)]
  exact BitVec.extractLsb'_eq_self

/-- The word has the fields of a command (30_encoding.md R60, R62). -/
def HasFieldsOf (c : CmdWord) (i : Instr) : Prop :=
  opField c = i.selector ∧ rsvField c = 0 ∧ immField c = i.immediate

theorem eq_encode_iff (c : CmdWord) (i : Instr) : c = encode i ↔ HasFieldsOf c i := by
  constructor
  · rintro rfl
    simp [HasFieldsOf, encode_eq_append]
  · rintro ⟨ho, hr, hi⟩
    rw [encode_eq_append, ← append_fields c, ho, hr, hi]
    rfl

/-- The decoder reads a command from exactly the words with its fields. -/
theorem decode_eq_legal_iff (c : CmdWord) (i : Instr) : decode c = .legal i ↔ HasFieldsOf c i := by
  constructor
  · intro h
    unfold decode at h
    split_ifs at h with hr h1 h2 h3 h4 h5 <;> cases h
    · exact ⟨h1.1, not_not.mp hr, h1.2⟩
    · exact ⟨h2.1, not_not.mp hr, h2.2⟩
    · exact ⟨h3, not_not.mp hr, rfl⟩
    · exact ⟨h4.1, not_not.mp hr, h4.2⟩
    · exact ⟨h5.1, not_not.mp hr, h5.2⟩
  · rintro ⟨ho, hr, hi⟩
    cases i <;> simp [decode, ho, hr, hi, Instr.selector, Instr.immediate]

/-- Settles O1: being decoded to a command and being its word both mean having its fields. -/
theorem decodeInvertsEncode : Obligations.DecodeInvertsEncode := fun c i =>
  (decode_eq_legal_iff c i).trans (eq_encode_iff c i).symm

@[simp] theorem decode_encode (i : Instr) : decode (encode i) = .legal i :=
  (decodeInvertsEncode (encode i) i).2 rfl

theorem encode_injective : Function.Injective encode := fun i j h => by
  simpa using congrArg decode h

/-- A command by its fields: FEED with any immediate, or one of the other four with none. -/
theorem exists_legal_iff (c : CmdWord) : (∃ i, decode c = .legal i) ↔
    rsvField c = 0 ∧
      (opField c = 0x3 ∨ opField c ∈ [0x1#4, 0x2#4, 0x4#4, 0x5#4] ∧ immField c = 0) := by
  simp only [decode_eq_legal_iff]
  constructor
  · rintro ⟨i, ho, hr, hi⟩
    cases i <;> simp_all [Instr.selector, Instr.immediate]
  · rintro ⟨hr, ho | ⟨ho, hi⟩⟩
    · exact ⟨.feed (immField c), ho, hr, rfl⟩
    · simp only [List.mem_cons, List.not_mem_nil, or_false] at ho
      rcases ho with ho | ho | ho | ho
      · exact ⟨.init, ho, hr, hi⟩
      · exact ⟨.initSalt, ho, hr, hi⟩
      · exact ⟨.result, ho, hr, hi⟩
      · exact ⟨.result32, ho, hr, hi⟩

theorem exists_illegal_iff (c : CmdWord) :
    (∃ why, decode c = .illegal why) ↔ ¬ ∃ i, decode c = .legal i := by
  cases decode c <;> simp

/-- Settles O2: each selector with its immediate gives the word the fields of its command; all other
words have no command's fields. -/
theorem decodeFollowsTheFields : Obligations.DecodeFollowsTheFields := by
  intro c
  refine ⟨fun hr => ?_, fun hr ho hi => (decode_eq_legal_iff c .init).2 ⟨ho, hr, hi⟩,
    fun hr ho hi => (decode_eq_legal_iff c .initSalt).2 ⟨ho, hr, hi⟩,
    fun hr ho => (decode_eq_legal_iff c (.feed (immField c))).2 ⟨ho, hr, rfl⟩,
    fun hr ho hi => (decode_eq_legal_iff c .result).2 ⟨ho, hr, hi⟩,
    fun hr ho hi => (decode_eq_legal_iff c .result32).2 ⟨ho, hr, hi⟩, fun _ ho other => ?_⟩ <;>
    rw [exists_illegal_iff, exists_legal_iff]
  · exact fun legal => hr legal.1
  · rintro ⟨-, feed | ⟨sel, hi⟩⟩
    · exact ho feed
    · exact other.elim (· hi) (· sel)

end Sys2Proof
end

section
/-! SUPPORT. How many words are legal (spec/30_encoding.md R64): as many as there are commands, since
each has one word. -/

namespace Sys2Proof

/-- The commands: four without an operand, and FEED with each byte. -/
def Instr.all : List Instr :=
  .init :: .initSalt :: .result :: .result32 :: (FinEnum.toList Byte).map .feed

theorem Instr.mem_all (i : Instr) : i ∈ Instr.all := by
  cases i <;> simp [Instr.all]

theorem Instr.nodup_all : Instr.all.Nodup := by
  have feeds : ((FinEnum.toList Byte).map Instr.feed).Nodup :=
    FinEnum.nodup_toList.map fun _ _ h => Instr.feed.inj h
  simp [Instr.all, List.nodup_cons, feeds]

theorem Instr.length_all : Instr.all.length = 260 := by
  simp [Instr.all, FinEnum.toList]

/-- The legal words, one for each command. -/
def legalWords : List CmdWord := Instr.all.map encode

theorem mem_legalWords (c : CmdWord) : c ∈ legalWords ↔ ∃ i, decode c = .legal i := by
  simp [legalWords, Instr.mem_all, decodeInvertsEncode c, eq_comm]

theorem nodup_legalWords : legalWords.Nodup := Instr.nodup_all.map encode_injective

theorem length_legalWords : legalWords.length = 260 := by
  rw [legalWords, List.length_map, Instr.length_all]

/-- All words but the legal ones. -/
noncomputable def illegalWords : List CmdWord := legalWords.toFinsetᶜ.toList

theorem mem_illegalWords (c : CmdWord) : c ∈ illegalWords ↔ ∃ why, decode c = .illegal why := by
  simp [illegalWords, mem_legalWords, exists_illegal_iff]

theorem length_illegalWords : illegalWords.length = 65276 := by
  rw [illegalWords, Finset.length_toList, Finset.card_compl,
    List.toFinset_card_of_nodup nodup_legalWords, length_legalWords,
    ← FinEnum.card_eq_fintypeCard, FinEnum.card_bitVec]
  rfl

/-- A selector is reserved exactly when it is none of the five operations' (30_encoding.md R62). -/
theorem reserved_selector_iff : ∀ o : BitVec 4,
    (o = 0x0 ∨ 0x6 ≤ o.toNat) ↔ ¬ (o = 0x3 ∨ o ∈ [0x1#4, 0x2#4, 0x4#4, 0x5#4]) := by
  decide

/-- A word is illegal exactly when one of the items of 30_encoding.md R64 says so. -/
theorem exists_illegal_iff_reserved (c : CmdWord) : (∃ why, decode c = .illegal why) ↔
    (opField c = 0x0 ∨ 0x6 ≤ (opField c).toNat ∨ rsvField c ≠ 0 ∨
      (opField c ∈ [0x1#4, 0x2#4, 0x4#4, 0x5#4] ∧ immField c ≠ 0)) := by
  have disjoint : opField c = 0x3 → opField c ∉ [0x1#4, 0x2#4, 0x4#4, 0x5#4] := by
    intro h
    rw [h]
    decide
  rw [exists_illegal_iff, exists_legal_iff, ← or_assoc, reserved_selector_iff]
  tauto

/-- Settles O4: the table's words are the encodings of its commands, and each of the five others is
reserved by R64. -/
theorem sampleWordsDecode : Obligations.SampleWordsDecode := by
  refine ⟨decode_encode .init, decode_encode .initSalt, rfl, decode_encode (.feed 69),
    decode_encode (.feed 122), decode_encode (.feed 0), decode_encode (.feed 255),
    decode_encode .result, decode_encode .result32, ?_⟩
  simp only [List.forall_mem_cons, exists_illegal_iff_reserved]
  exact ⟨.inl rfl, .inr (.inr (.inr (by decide))), .inr (.inr (.inl (by decide))),
    .inr (.inl (by decide)), .inr (.inl (by decide)), List.forall_mem_nil _⟩

namespace Machine

/-- Settles O3: the legal words are listed by the commands, the illegal ones are the rest of the
65536, and a step on one of these enters the fault. -/
theorem illegalWordsAreTheReservedOnes : Obligations.IllegalWordsAreTheReservedOnes := by
  refine ⟨exists_illegal_iff_reserved,
    ⟨legalWords, nodup_legalWords, length_legalWords, mem_legalWords⟩,
    ⟨illegalWords, Finset.nodup_toList _, length_illegalWords, mem_illegalWords⟩,
    (exists_illegal_iff_reserved 0x0000).2 (.inl rfl), ?_⟩
  rintro s c x rest hf p ⟨why, d⟩
  exact step_illegal_unfaulted s p hf d

end Machine
end Sys2Proof
end

section
/-! SUPPORT. Which variant supports which command (spec/30_encoding.md R63), and so what the assembler
refuses (R67) and what the pseudo-instructions stand for (R68). -/

namespace Sys2Proof

theorem Variant.saltOk_eq_false_iff (v : Variant) : v.saltOk = false ↔ v = .dso64 := by
  cases v <;> decide

theorem Variant.res32Ok_eq_false_iff (v : Variant) : v.res32Ok = false ↔ v.width = 64 := by
  cases v <;> decide

namespace Machine

/-- A command the variant lacks raises UNSUPPORTED_COMMAND on an unfaulted block (30_encoding.md R63). -/
theorem exec_unsupported {i : Instr} {s : State} (hf : s.fault = false)
    (hs : i.supported s.variant = false) : exec i s = .next (s.raiseFault .unsupportedCommand) := by
  rw [exec_eq_checked, hs, s.checked_unsupported _ hf]

/-- Settles O7: the table row by row, and the fault of a command whose entry is 0. -/
theorem supportTableGovernsExecution : Obligations.SupportTableGovernsExecution := by
  refine ⟨fun v => ⟨rfl, fun _ => rfl, rfl, Iff.rfl, ?_, Iff.rfl, ?_⟩,
    fun i s hf hs => exec_unsupported hf hs⟩
  · cases v <;> decide
  · cases v <;> decide

section
variable (v : Variant)

theorem AsmCommand.assemble_eq_none_iff (c : AsmCommand) :
    c.assemble v = none ↔ c.inRange v = false ∨ c.instr.supported v = false := by
  simp [AsmCommand.assemble, AsmCommand.accepts, Instr.wf, or_iff_not_imp_left]

theorem AsmCommand.assemble_eq_some_iff (c : AsmCommand) (w : CmdWord) (x : BitVec v.width) :
    c.assemble v = some (w, x) ↔ (c.inRange v = true ∧ c.instr.supported v = true) ∧
      encode c.instr = w ∧ c.salt v.width = x := by
  simp [AsmCommand.assemble, AsmCommand.accepts, Instr.wf]

theorem AsmCommand.assemble_feed_eq_none_iff (b : Nat) :
    (AsmCommand.feed b).assemble v = none ↔ 255 < b := by
  simp [AsmCommand.assemble_eq_none_iff, AsmCommand.inRange, AsmCommand.instr, Instr.supported]
  exact Nat.succ_le_iff

theorem AsmCommand.assemble_initSalt_eq_none_iff (n : Nat) :
    (AsmCommand.initSalt n).assemble v = none ↔ 2 ^ v.width ≤ n ∨ v = .dso64 := by
  simp [AsmCommand.assemble_eq_none_iff, AsmCommand.inRange, AsmCommand.instr, Instr.supported,
    Variant.saltOk_eq_false_iff]

theorem AsmCommand.assemble_result32_eq_none_iff :
    AsmCommand.result32.assemble v = none ↔ v.width = 64 := by
  simp [AsmCommand.assemble_eq_none_iff, AsmCommand.inRange, AsmCommand.instr, Instr.supported,
    Variant.res32Ok_eq_false_iff]

end

theorem AsmCommand.toNat_salt_initSalt {v : Variant} {n : Nat}
    (h : (AsmCommand.initSalt n).inRange v = true) :
    ((AsmCommand.initSalt n).salt v.width).toNat = n :=
  (BitVec.toNat_ofNat n v.width).trans (Nat.mod_eq_of_lt (of_decide_eq_true h))

theorem AsmCommand.toNat_feed_byte {v : Variant} {b : Nat}
    (h : (AsmCommand.feed b).inRange v = true) : (BitVec.ofNat 8 b).toNat = b :=
  (BitVec.toNat_ofNat b 8).trans (Nat.mod_eq_of_lt (of_decide_eq_true h))

/-- Settles O49: the refusals come from range and support, and what is assembled is the encoding of the
command with its literals in range. -/
theorem assemblerRefusesWhatTheVariantLacks : Obligations.AssemblerRefusesWhatTheVariantLacks := by
  refine ⟨fun v => ⟨AsmCommand.assemble_feed_eq_none_iff v,
    AsmCommand.assemble_initSalt_eq_none_iff v, AsmCommand.assemble_result32_eq_none_iff v,
    Option.some_ne_none _, Option.some_ne_none _⟩, fun v c w x h => ?_⟩
  obtain ⟨⟨range, supported⟩, rfl, rfl⟩ := (AsmCommand.assemble_eq_some_iff v c w x).1 h
  refine ⟨decode_encode c.instr, supported, ?_, ?_⟩
  · rintro n rfl
    exact AsmCommand.toNat_salt_initSalt range
  · rintro b rfl
    exact ⟨_, rfl, AsmCommand.toNat_feed_byte range⟩

/-- Settles O50: FEEDS maps the list of bytes to FEEDs, which commutes with joining lists; the other
expansions are built on it. -/
theorem pseudoInstructionsExpand : Obligations.PseudoInstructionsExpand :=
  ⟨rfl, fun _ _ => rfl, fun _ _ => List.map_append, fun _ => rfl, fun _ => rfl, fun _ _ => rfl⟩

end Machine
end Sys2Proof
end

section
/-! SUPPORT. The construction commands (spec/40_construct.md): INIT writes the seed and INIT_SALT the
salt, whatever STATE held, and each has one word. -/

namespace Sys2Proof

theorem Instr.immediate_eq_zero {i : Instr} (hi : i.selector ≠ 0x3) : i.immediate = 0 := by
  cases i with
  | feed b => exact absurd rfl hi
  | init | initSalt | result | result32 => rfl

/-- Apart from FEED each operation has one word, and every other word with its selector is illegal
(30_encoding.md R64). -/
theorem exists_illegal_of_ne_encode {c : CmdWord} {i : Instr} (hi : i.selector ≠ 0x3)
    (ho : opField c = i.selector) (hc : c ≠ encode i) : ∃ why, decode c = .illegal why := by
  rw [exists_illegal_iff, exists_legal_iff]
  rintro ⟨hr, feed | ⟨-, imm⟩⟩
  · exact hi (ho.symm.trans feed)
  · exact hc ((eq_encode_iff c i).2 ⟨ho, hr, imm.trans (Instr.immediate_eq_zero hi).symm⟩)

theorem Variant.saltOk_of_ne_dso64 {v : Variant} (h : v ≠ .dso64) : v.saltOk = true := by
  rwa [ne_eq, ← v.saltOk_eq_false_iff, Bool.not_eq_false] at h

namespace Machine

theorem combine_zero_byte (v : Variant) (s : BitVec v.width) : combine v s 0 = mul33 s := by
  cases h : v.op <;> simp [combine, h, combineAdd, combineXor, zextByte]

@[simp] theorem mul33_zero (w : Nat) : mul33 0#w = 0#w := by
  simp [mul33]

theorem combine_zero_zero (v : Variant) : combine v 0 0 = 0 :=
  (combine_zero_byte v 0).trans (mul33_zero v.width)

/-- The formatter forces bit 31 of the seed, which is 0 there, in MA32H alone (40_construct.md R81). -/
theorem resultValue_seed (v : Variant) :
    resultValue v (seed v.width) = if v = .ma32h then 0x80001505 else 0x1505 := by
  cases v <;> decide

/-- A faulted block answers every command ERR, and nothing else happens (60_exceptions.md R134). -/
theorem exec_faulted (i : Instr) {s : State} (hf : s.fault = true) :
    exec i s = .next (s.respond .err) := by
  rw [exec_eq_checked, s.checked_faulted _ _ hf]

section
variable {s : State} (hf : s.fault = false)
include hf

theorem exec_init : exec .init s = .next ((s.writeAcc 5381).respond .none) :=
  exec_supported hf rfl

theorem exec_initSalt (salted : s.variant.saltOk = true) :
    exec .initSalt s = .next ((s.writeAcc s.salt).respond .none) :=
  exec_supported hf salted

theorem exec_feed {a : BitVec s.variant.width} (b : Byte) (ha : s.acc = some a) :
    exec (.feed b) s = .next ((s.writeAcc (combine s.variant a b)).respond .none) :=
  (exec_supported hf rfl).trans (congrArg _ (s.onAccumulator_some _ a ha))

/-- STATE 0, as INIT_SALT may leave it, stays 0 under FEED 0 (40_construct.md R82). -/
theorem exec_feed_zero_of_acc_zero (ha : s.acc = some 0) :
    exec (.feed 0) s = .next ((s.writeAcc 0).respond .none) := by
  rw [exec_feed hf 0 ha, combine_zero_zero]

end

/-- Settles O14: the seed is written over any STATE, the one of an INIT before included. -/
theorem initConstructsWithSeed : Obligations.InitConstructsWithSeed := by
  refine ⟨fun s hf => ⟨exec_init hf, ?_⟩, fun s => exec_faulted .init, fun _ => rfl,
    fun c => decodeInvertsEncode c .init,
    fun c => exists_illegal_of_ne_encode (i := .init) (by decide)⟩
  exact exec_init (s := { s with acc := some 5381, responses := s.responses ++ [.none] }) hf

/-- Settles O15: INIT leaves the seed in STATE, and RESULT answers its formatted value. -/
theorem resultAfterInitIsTheSeed : Obligations.ResultAfterInitIsTheSeed := by
  intro s hf
  refine ⟨_, exec_init hf, rfl, ?_⟩
  rw [← resultValue_seed]
  exact exec_result (s := (s.writeAcc 5381).respond .none) hf rfl

/-- Settles O16: the salt is written as it stands on the bus, so 5381 and 0 are salts like any
other. -/
theorem initSaltConstructsWithSalt : Obligations.InitSaltConstructsWithSalt := by
  refine ⟨fun s x hf hv => ?_, fun s hf hv seeded => ?_, fun s hf hv zero => ?_,
    fun s hf hv => exec_unsupported hf (s.variant.saltOk_eq_false_iff.2 hv),
    fun s => exec_faulted .initSalt, fun c => decodeInvertsEncode c .initSalt,
    fun c => exists_illegal_of_ne_encode (i := .initSalt) (by decide), by decide⟩
  · exact exec_initSalt (s := { s with salt := x }) hf (Variant.saltOk_of_ne_dso64 hv)
  · rw [exec_initSalt hf (Variant.saltOk_of_ne_dso64 hv), seeded, exec_init hf]
  · have constructed := exec_initSalt hf (Variant.saltOk_of_ne_dso64 hv)
    rw [zero] at constructed
    exact ⟨_, constructed,
      exec_feed_zero_of_acc_zero (s := (s.writeAcc 0).respond .none) hf rfl⟩

/-- Settles O26: what a construction answers with is written over STATE without reading it. -/
theorem reconstructionDiscardsTheOldValue : Obligations.ReconstructionDiscardsTheOldValue := by
  intro s old hf
  have live : State.fault { s with acc := some old } = false := hf
  have fresh : State.fault { s with acc := none } = false := hf
  refine ⟨?_, fun salted => ?_⟩
  · exact (exec_init live).trans (exec_init fresh).symm
  · exact (exec_initSalt live salted).trans (exec_initSalt fresh salted).symm

end Machine
end Sys2Proof
end

section
/-! SUPPORT. The datapath in closed form (spec/41_feed.md R91 to R93): the shifter multiplies by 33, and
each combine adds or XORs the zero-extended byte to that product. -/

namespace Sys2Proof

theorem Variant.width_eq_32_or_64 (v : Variant) : v.width = 32 ∨ v.width = 64 := by
  cases v <;> decide

theorem Variant.le_width (v : Variant) : 32 ≤ v.width := by
  rcases v.width_eq_32_or_64 with h | h <;> omega

theorem Variant.op_eq_add_iff (v : Variant) : v.op = .add ↔ v ∈ [.ma64, .dso64, .ma32, .ma32h] := by
  cases v <;> decide

theorem Variant.op_eq_xor_iff (v : Variant) : v.op = .xor ↔ v ∈ [.mx64, .mx32] := by
  cases v <;> decide

namespace Machine

/-! ### The shifter -/

/-- The shift multiplies by 32, and the sum of the two reductions is reduced once more. -/
theorem toNat_mul33 {w : Nat} (s : BitVec w) : (mul33 s).toNat = s.toNat * 33 % 2 ^ w := by
  have product : s.toNat * 2 ^ 5 + s.toNat = s.toNat * 33 := by omega
  rw [mul33, shiftCount, BitVec.toNat_add, BitVec.toNat_shiftLeft, Nat.shiftLeft_eq,
    Nat.mod_add_mod, product]

theorem mul33_eq_ofNat {w : Nat} (s : BitVec w) : mul33 s = BitVec.ofNat w (s.toNat * 33) :=
  BitVec.eq_of_toNat_eq ((toNat_mul33 s).trans (BitVec.toNat_ofNat _ w).symm)

/-- Settles O9: the closed form for every width, and the table's six corners at each of the two
widths. -/
theorem shifterMultipliesBy33 : Obligations.ShifterMultipliesBy33 := by
  refine ⟨fun _ => toNat_mul33, fun w hw => ?_⟩
  rcases hw with rfl | rfl
  · decide
  · decide

/-! ### The two combines -/

section
variable {v : Variant}

theorem combine_eq_combineAdd (h : v.op = .add) : combine v = combineAdd := by
  funext s b
  rw [combine, h]

theorem combine_eq_combineXor (h : v.op = .xor) : combine v = combineXor := by
  funext s b
  rw [combine, h]

end

section
variable {w : Nat} (s : BitVec w) (b : Byte)

theorem combineAdd_eq_shiftLeft_add : combineAdd s b = (s <<< 5) + (s + b.setWidth w) :=
  BitVec.add_assoc _ _ _

/-- Reducing the product and the byte before the addition does not show after it. -/
theorem toNat_combineAdd : (combineAdd s b).toNat = (s.toNat * 33 + b.toNat) % 2 ^ w := by
  rw [combineAdd, zextByte, BitVec.toNat_add, toNat_mul33, BitVec.toNat_setWidth,
    Nat.mod_add_mod, Nat.add_mod_mod]

/-- The byte has no bits from 8 up, so these are the product's. -/
theorem getLsbD_combineXor_high {n : Nat} (h : 8 ≤ n) :
    (combineXor s b).getLsbD n = (mul33 s).getLsbD n := by
  rw [combineXor, zextByte, BitVec.getLsbD_xor, BitVec.getLsbD_setWidth,
    BitVec.getLsbD_of_ge b n h, Bool.and_false, Bool.xor_false]

theorem getLsbD_combineXor_low {n : Nat} (h : n < w) :
    (combineXor s b).getLsbD n = ((mul33 s).getLsbD n ^^ b.getLsbD n) := by
  rw [combineXor, zextByte, BitVec.getLsbD_xor, BitVec.getLsbD_setWidth, decide_eq_true h,
    Bool.true_and]

end

/-- Settles O10: the combine of an ADD variant is the additive one, whose value is taken modulo 2^W
once. -/
theorem additiveCombineWraps : Obligations.AdditiveCombineWraps := by
  refine ⟨Variant.op_eq_add_iff, fun v s b h => ?_⟩
  rw [combine_eq_combineAdd h]
  exact ⟨rfl, combineAdd_eq_shiftLeft_add s b, toNat_combineAdd s b⟩

/-- Settles O11: the combine of an XOR variant is the bitwise one, and the zero-extended byte has bits
[7:0] alone. -/
theorem xorCombineChangesTheLowByte : Obligations.XorCombineChangesTheLowByte := by
  refine ⟨Variant.op_eq_xor_iff, fun v s b h => ?_⟩
  rw [combine_eq_combineXor h]
  refine ⟨?_, fun n low => ?_, fun n => getLsbD_combineXor_high s b⟩
  · rw [← mul33_eq_ofNat]
    rfl
  · exact getLsbD_combineXor_low s b (by have := v.le_width; omega)

end Machine
end Sys2Proof
end

section
/-! SUPPORT. Width reduction (spec/41_feed.md R99): truncating to fewer bits commutes with the shifter and
with both combines, since carries and shifts move bits only upward. -/

namespace Sys2Proof.Machine

section
variable {m w : Nat} (s : BitVec w) (b : Byte) (h : m ≤ w)
include h

theorem setWidth_mul33 : (mul33 s).setWidth m = mul33 (s.setWidth m) := by
  apply BitVec.eq_of_toNat_eq
  rw [BitVec.toNat_setWidth, toNat_mul33, toNat_mul33, BitVec.toNat_setWidth,
    Nat.mod_mod_of_dvd _ (Nat.pow_dvd_pow 2 h), Nat.mod_mul_mod]

theorem setWidth_zextByte : (zextByte w b).setWidth m = zextByte m b :=
  BitVec.setWidth_setWidth_of_le b h

theorem setWidth_combineAdd :
    (combineAdd s b).setWidth m = combineAdd (s.setWidth m) b := by
  rw [combineAdd, BitVec.setWidth_add _ _ h, setWidth_mul33 s h, setWidth_zextByte b h, combineAdd]

theorem setWidth_combineXor :
    (combineXor s b).setWidth m = combineXor (s.setWidth m) b := by
  rw [combineXor, BitVec.setWidth_xor, setWidth_mul33 s h, setWidth_zextByte b h, combineXor]

end

section
variable {v u : Variant} (op : v.op = u.op) {s : BitVec v.width} {t : BitVec u.width}
  (low : s.setWidth 32 = t.setWidth 32)
include op low

/-- One combine step keeps the agreement in bits [31:0]. -/
theorem setWidth_combine_congr (b : Byte) :
    (combine v s b).setWidth 32 = (combine u t b).setWidth 32 := by
  cases hu : u.op with
  | add =>
    rw [combine_eq_combineAdd hu, combine_eq_combineAdd (op.trans hu),
      setWidth_combineAdd s b v.le_width, setWidth_combineAdd t b u.le_width, low]
  | xor =>
    rw [combine_eq_combineXor hu, combine_eq_combineXor (op.trans hu),
      setWidth_combineXor s b v.le_width, setWidth_combineXor t b u.le_width, low]

theorem setWidth_foldl_combine_congr (bytes : List Byte) :
    (bytes.foldl (combine v) s).setWidth 32 = (bytes.foldl (combine u) t).setWidth 32 :=
  List.foldl_rel (r := fun (x : BitVec v.width) (y : BitVec u.width) => x.setWidth 32 = y.setWidth 32) low
    fun b _ _ _ agree => setWidth_combine_congr op agree b

end

/-- A 32-bit value that agrees with a 64-bit one in bits [31:0] is that value modulo 2^32. -/
theorem toNat_eq_mod_of_setWidth_eq {x : BitVec 32} {y : BitVec 64}
    (h : x.setWidth 32 = y.setWidth 32) : x.toNat = y.toNat % 2 ^ 32 := by
  rw [← BitVec.toNat_setWidth, ← h, BitVec.setWidth_eq]

/-- Settles O12: one combine step keeps the agreement, so a list of bytes does; the two seeds agree. -/
theorem lowBitsAgreeAcrossWidths : Obligations.LowBitsAgreeAcrossWidths := by
  refine ⟨fun v u s t bytes op low => setWidth_foldl_combine_congr op low bytes,
    fun bytes => toNat_eq_mod_of_setWidth_eq ?_, fun bytes => toNat_eq_mod_of_setWidth_eq ?_⟩
  · exact setWidth_foldl_combine_congr (v := .ma32) (u := .ma64) rfl rfl bytes
  · exact setWidth_foldl_combine_congr (v := .mx32) (u := .mx64) rfl rfl bytes

end Sys2Proof.Machine
end

section
/-! SUPPORT. The command FEED (spec/41_feed.md R95): its words, its fault before a construction, and a
stream of FEEDs as a chain of combine steps (R97). -/

namespace Sys2Proof

/-- FEED's words are 0x3000 to 0x30FF: the byte fills the bits that are 0 in 0x3000 (41_feed.md R95). -/
theorem encode_feed (b : Byte) : encode (.feed b) = 0x3000#16 + b.setWidth 16 := by
  have joined : encode (.feed b) = 0x30#8 ++ b := rfl
  have byte := b.isLt
  apply BitVec.eq_of_toNat_eq
  rw [joined, BitVec.toNat_append, ← Nat.shiftLeft_add_eq_or_of_lt byte, BitVec.toNat_add,
    BitVec.toNat_setWidth]
  change 0x3000 + b.toNat = (0x3000 + b.toNat % 2 ^ 16) % 2 ^ 16
  omega

namespace Machine

theorem exec_feed_unconstructed {s : State} (hf : s.fault = false) (ha : s.acc = none) (b : Byte) :
    exec (.feed b) s = .next (s.raiseFault .notConstructed) :=
  (exec_supported hf rfl).trans (congrArg _ (s.onAccumulator_none _ ha))

/-- From all ones the shifter gives 2^W - 33, so the additive combine wraps for the bytes from 33 up
(41_feed.md R95). -/
theorem combine_add_allOnes {v : Variant} (h : v.op = .add) :
    combine v (BitVec.allOnes v.width) 0xFF = 0xDE ∧
      combine v (BitVec.allOnes v.width) 33 = 0 := by
  revert h
  cases v <;> decide

/-- From all ones the XOR combine flips the product's low byte, 0xDF, and nothing carries
(41_feed.md R95). -/
theorem combine_xor_allOnes {v : Variant} (h : v.op = .xor) :
    combine v (BitVec.allOnes v.width) 0xFF = BitVec.ofNat v.width (2 ^ v.width - 224) := by
  revert h
  cases v <;> decide

/-- Settles O17: the checks pass or raise one fault each, the words are those with FEED's fields, and
the corner cases are the datapath's. -/
theorem feedCombinesOneByte : Obligations.FeedCombinesOneByte := by
  refine ⟨fun s a b hf => exec_feed hf b, fun s b hf ha => exec_feed_unconstructed hf ha b,
    fun s b => exec_faulted (.feed b), fun _ _ => rfl, fun c b => ?_,
    fun c => (decodeFollowsTheFields c).1, combine_zero_byte, combine_zero_zero,
    fun _ => combine_add_allOnes, fun _ => combine_xor_allOnes, by decide, by decide⟩
  rw [decodeInvertsEncode, encode_feed]

/-! ### A stream of FEEDs -/

theorem step_feed {s : State} {a x : BitVec s.variant.width} {b : Byte}
    {rest : List (HostEvent s.variant.width)} (hf : s.fault = false) (ha : s.acc = some a)
    (p : s.pending = .command (encode (.feed b)) x :: rest) :
    step s = .next
      (((s.accept (encode (.feed b)) x rest).writeAcc (combine s.variant a b)).respond .none) :=
  (stepRunsTheDecodedCommand s _ x rest _ p (decode_encode _)).trans
    (exec_feed (s := s.accept (encode (.feed b)) x rest) hf b ha)

/-- The events of a stream: each byte as the word of its FEED, with the value on the SALT bus beside
it. -/
def feedEvents {w : Nat} (stream : List (Byte × BitVec w)) : List (HostEvent w) :=
  stream.map fun p => .command (encode (.feed p.1)) p.2

/-- A chain of FEEDs from a block that differs from `s` in what a FEED writes: STATE, the ports, the
responses. -/
theorem runSteps_feedEvents {s : State} (hf : s.fault = false)
    (stream : List (Byte × BitVec s.variant.width)) (rest : List (HostEvent s.variant.width))
    (a : BitVec s.variant.width) (c : CmdWord) (y : BitVec s.variant.width) (r : List Response) :
    runSteps stream.length { s with
      acc := some a, cmd := c, salt := y, responses := r, pending := feedEvents stream ++ rest } =
    .next { s with
      acc := some ((stream.map Prod.fst).foldl (combine s.variant) a)
      cmd := stream.foldl (fun _ p => encode (.feed p.1)) c
      salt := stream.foldl (fun _ p => p.2) y
      pending := rest
      responses := r ++ List.replicate stream.length .none } := by
  induction stream generalizing a c y r with
  | nil => simp [feedEvents]
  | cons p stream ih =>
    obtain ⟨b, x⟩ := p
    have first := step_feed (s := { s with
      acc := some a, cmd := c, salt := y, responses := r,
      pending := feedEvents ((b, x) :: stream) ++ rest }) hf rfl rfl
    have chain := ih (combine s.variant a b) (encode (.feed b)) x (r ++ [.none])
    rw [List.append_assoc] at chain
    exact (runSteps_succ stream.length first).trans chain

/-- Settles O46: the chain from the STATE, the ports and the responses that the block holds. -/
theorem feedStreamIsAChain : Obligations.FeedStreamIsAChain := by
  intro s a stream rest hf ha
  have chain := runSteps_feedEvents hf stream rest a s.cmd s.salt s.responses
  rw [← ha] at chain
  exact chain

end Machine
end Sys2Proof
end


section
/-! SUPPORT. The values the result commands answer with (spec/42_result.md R110 to R115): what the output
formatter does to each bit, and what RESULT32's value is where W = 32. -/

namespace Sys2Proof

theorem Variant.hbf_eq_true_iff (v : Variant) : v.hbf = true ↔ v = .ma32h := by
  cases v <;> decide

theorem Variant.hbf_of_ne_ma32h {v : Variant} (h : v ≠ .ma32h) : v.hbf = false := by
  rwa [ne_eq, ← v.hbf_eq_true_iff, Bool.not_eq_true] at h

/-- RESULT32 exists only where W = 32 (00_scope.md R2). -/
theorem Variant.width_of_res32Ok {v : Variant} (h : v.res32Ok = true) : v.width = 32 :=
  v.width_eq_32_or_64.resolve_right fun wide => by simp [v.res32Ok_eq_false_iff.2 wide] at h

theorem Variant.res32Ok_iff_mem (v : Variant) : v.res32Ok = true ↔ v ∈ [.ma32, .ma32h, .mx32] := by
  cases v <;> decide

theorem Variant.res32Ok_eq_false_iff_mem (v : Variant) :
    v.res32Ok = false ↔ v ∈ [.ma64, .dso64, .mx64] := by
  cases v <;> decide

namespace Machine

theorem format_of_ne_ma32h {v : Variant} (h : v ≠ .ma32h) (a : BitVec v.width) : format v a = a :=
  format_of_unforced (Variant.hbf_of_ne_ma32h h) a

theorem getLsbD_format_ma32h (a : BitVec 32) (n : Nat) :
    (format .ma32h a).getLsbD n = (a.getLsbD n || decide (n = 31)) := by
  have mask : 0x80000000#32 = BitVec.twoPow 32 31 := by decide
  rw [format_ma32h, mask, BitVec.getLsbD_or, BitVec.getLsbD_twoPow]
  simp [eq_comm]

theorem format_ma32h_of_bit31 {a : BitVec 32} (h : a.getLsbD 31 = true) : format .ma32h a = a := by
  refine BitVec.eq_of_getLsbD_eq fun n _ => ?_
  rw [getLsbD_format_ma32h]
  by_cases hn : n = 31
  · simp [hn, h]
  · simp [hn]

section
variable {v : Variant} (a : BitVec v.width)

/-- Widening to the response bus loses nothing (42_result.md R111). -/
theorem toNat_resultValue : (resultValue v a).toNat = (format v a).toNat := by
  have fits : v.width ≤ 64 := by rcases v.width_eq_32_or_64 with h | h <;> omega
  exact BitVec.toNat_setWidth_of_le fits

theorem resultValue_lt_of_width (h : v.width = 32) : (resultValue v a).toNat < 2 ^ 32 := by
  rw [toNat_resultValue, ← h]
  exact (format v a).isLt

theorem getLsbD_resultValue_forced (h : v = .ma32h) : (resultValue v a).getLsbD 31 = true := by
  subst h
  rw [resultValue, BitVec.getLsbD_setWidth, getLsbD_format_ma32h]
  simp

theorem le_toNat_resultValue_forced (h : v = .ma32h) : 0x80000000 ≤ (resultValue v a).toNat :=
  Nat.ge_two_pow_of_testBit (getLsbD_resultValue_forced a h)

theorem resultValue_zero_of_ne_ma32h (h : v ≠ .ma32h) : resultValue v 0 = 0 := by
  rw [resultValue, format_of_ne_ma32h h]
  exact BitVec.setWidth_zero 64 v.width

theorem result32Value_eq_setWidth :
    result32Value v a = ((format v a).setWidth 32).setWidth 64 := by
  rw [result32Value, BitVec.setWidth_eq_extractLsb' v.le_width]

/-- Where W = 32, bits [31:0] of the formatted value are all of it (42_result.md R114). -/
theorem result32Value_eq_resultValue (h : v.width = 32) : result32Value v a = resultValue v a := by
  apply BitVec.eq_of_toNat_eq
  have low : (format v a).toNat < 2 ^ 32 := h ▸ (format v a).isLt
  rw [result32Value_eq_setWidth, toNat_resultValue, BitVec.toNat_setWidth_of_le (by decide),
    BitVec.toNat_setWidth, Nat.mod_eq_of_lt low]

end

end Machine
end Sys2Proof
end

section
/-! SUPPORT. The commands RESULT and RESULT32 (spec/42_result.md R111, R113, R114, R116): what each answers,
which faults each raises, and that neither changes what a later command does. -/

namespace Sys2Proof.Machine

/-- A supported command that reads STATE raises NOT_CONSTRUCTED while STATE holds no value
(60_exceptions.md R132). -/
theorem exec_unconstructed {i : Instr} {s : State} (reads : i.needsAccumulator = true)
    (hf : s.fault = false) (hs : i.supported s.variant = true) (ha : s.acc = none) :
    exec i s = .next (s.raiseFault .notConstructed) := by
  rw [exec_supported hf hs]
  cases i with
  | init | initSalt => simp [Instr.needsAccumulator] at reads
  | feed b | result | result32 => exact congrArg _ (s.onAccumulator_none _ ha)

/-- Settles O20: where RESULT32 exists the two commands pass the same checks, and their values are one. -/
theorem result32AgreesWithResult : Obligations.Result32AgreesWithResult := by
  intro s h
  have body : bodyOf .result32 s = bodyOf .result s :=
    congrArg s.onAccumulator (funext fun a => by
      rw [result32Value_eq_resultValue a (Variant.width_of_res32Ok h)])
  have support : Instr.result32.supported s.variant = Instr.result.supported s.variant := h
  rw [exec_eq_checked, exec_eq_checked, body, support]

theorem exec_result32 {s : State} {a : BitVec s.variant.width} (hf : s.fault = false)
    (h : s.variant.res32Ok = true) (ha : s.acc = some a) :
    exec .result32 s = .next (s.respond (.val (result32Value s.variant a))) := by
  rw [result32AgreesWithResult s h, exec_result hf ha,
    result32Value_eq_resultValue a (Variant.width_of_res32Ok h)]

/-- The word of a command, next to arrive, performs that command with word and salt on the ports. -/
theorem step_encode (i : Instr) (s : State) (x : BitVec s.variant.width)
    (rest : List (HostEvent s.variant.width)) :
    step { s with pending := .command (encode i) x :: rest } =
      exec i { s with cmd := encode i, salt := x, pending := rest } :=
  stepRunsTheDecodedCommand { s with pending := .command (encode i) x :: rest } _ x rest i rfl
    (decode_encode i)

/-- Settles O51: both commands pass the checks, and where W = 32 their two values are one. -/
theorem result32AnswersTheValueOfResult : Obligations.Result32AnswersTheValueOfResult := by
  intro s a x rest h hf ha
  refine ⟨resultValue s.variant a, ?_, ?_⟩
  · exact (step_encode .result s x rest).trans
      (exec_result (s := { s with cmd := 0x4000, salt := x, pending := rest }) hf ha)
  · rw [← result32Value_eq_resultValue a (Variant.width_of_res32Ok h)]
    exact (step_encode .result32 s x rest).trans
      (exec_result32 (s := { s with cmd := 0x5000, salt := x, pending := rest }) hf h ha)

/-- Settles O18: the value is the formatter's, widened; the checks raise one fault each. -/
theorem resultReturnsFormattedAccumulator : Obligations.ResultReturnsFormattedAccumulator :=
  ⟨fun _ a hf ha => ⟨exec_result hf ha, toNat_resultValue a, resultValue_lt_of_width a,
      le_toNat_resultValue_forced a⟩,
    fun _ hf ha => exec_unconstructed rfl hf rfl ha, fun _ => exec_faulted .result, fun _ => rfl,
    fun c => decodeInvertsEncode c .result,
    fun _ => exists_illegal_of_ne_encode (i := .result) (by decide), by decide⟩

/-- Settles O19: the value is that of RESULT, since RESULT32 exists only where W = 32; the checks raise
one fault each. -/
theorem result32ReturnsNativeHash : Obligations.Result32ReturnsNativeHash := by
  refine ⟨fun s a hf native ha => ?_,
    fun s hf wide => exec_unsupported hf (s.variant.res32Ok_eq_false_iff_mem.2 wide),
    fun s hf native => exec_unconstructed rfl hf (s.variant.res32Ok_iff_mem.2 native),
    fun _ => exec_faulted .result32, fun c => decodeInvertsEncode c .result32,
    fun _ => exists_illegal_of_ne_encode (i := .result32) (by decide), by decide⟩
  have supported := s.variant.res32Ok_iff_mem.2 native
  have same := result32Value_eq_resultValue a (Variant.width_of_res32Ok supported)
  refine ⟨result32Value s.variant a, exec_result32 hf supported ha, result32Value_eq_setWidth a,
    fun forced => ?_, fun unforced => ?_⟩
  · rw [same, getLsbD_resultValue_forced a forced]
  · rw [same, toNat_resultValue, format_of_ne_ma32h unforced]

/-- Settles O13: the formatter is one OR in MA32H and nothing elsewhere; a RESULT adds a response
alone, so the FEED after it combines STATE as it was. -/
theorem outputFormatterForcesBit31 : Obligations.OutputFormatterForcesBit31 :=
  ⟨format_ma32h, by decide, fun _ => format_ma32h_of_bit31, fun _ a h => format_of_ne_ma32h h a,
    fun s a b hf ha => ⟨resultValue s.variant a, exec_result hf ha,
      exec_feed (s := s.respond (.val (resultValue s.variant a))) hf b ha⟩⟩

/-! ### Non-interference -/

/-- A command writes the same and answers the same, whatever responses were given before. -/
theorem exec_responses_ignored (j : Instr) (s : State) :
    ∃ (a : Option (BitVec s.variant.width)) (f : Bool) (k : Cause) (w : CmdWord) (r : Response),
      ∀ l, exec j { s with responses := l } = .next { s with
        acc := a, fault := f, cause := k, fcmd := w, responses := l ++ [r] } := by
  rcases Bool.eq_false_or_eq_true s.fault with hf | hf
  · exact ⟨s.acc, s.fault, s.cause, s.fcmd, .err,
      fun l => exec_faulted j (s := { s with responses := l }) hf⟩
  rcases Bool.eq_false_or_eq_true (j.supported s.variant) with hs | hs
  · rcases bodyOf_cases j s with
      ⟨rfl, -⟩ | ⟨rfl, -⟩ | ⟨reads, ha, -⟩ | ⟨b, a, rfl, ha, -⟩ | ⟨a, rfl, ha, -⟩ | ⟨a, rfl, ha, -⟩
    · exact ⟨some 5381, s.fault, s.cause, s.fcmd, .none,
        fun l => exec_init (s := { s with responses := l }) hf⟩
    · exact ⟨some s.salt, s.fault, s.cause, s.fcmd, .none,
        fun l => exec_initSalt (s := { s with responses := l }) hf hs⟩
    · exact ⟨s.acc, true, .notConstructed, s.cmd, .err,
        fun l => exec_unconstructed (s := { s with responses := l }) reads hf hs ha⟩
    · exact ⟨some (combine s.variant a b), s.fault, s.cause, s.fcmd, .none,
        fun l => exec_feed (s := { s with responses := l }) hf b ha⟩
    · exact ⟨s.acc, s.fault, s.cause, s.fcmd, .val (resultValue s.variant a),
        fun l => exec_result (s := { s with responses := l }) hf ha⟩
    · exact ⟨s.acc, s.fault, s.cause, s.fcmd, .val (result32Value s.variant a),
        fun l => exec_result32 (s := { s with responses := l }) hf hs ha⟩
  · exact ⟨s.acc, true, .unsupportedCommand, s.cmd, .err,
      fun l => exec_unsupported (s := { s with responses := l }) hf hs⟩

/-- A result command that enters no fault adds a response and does nothing else. -/
theorem exec_result_frame {i : Instr} {s t : State} (hi : i = .result ∨ i = .result32)
    (h : exec i s = .next t) (hf : t.fault = s.fault) :
    ∃ r, t = { s with responses := s.responses ++ [r] } := by
  obtain ⟨_, h', a, f, k, w, r, rfl, written, record⟩ := exec_commandFrame i s
  obtain rfl := Host.Outcome.next.inj (h'.symm.trans h)
  have kept : a = s.acc := by
    rcases written with kept | ⟨rfl, -⟩ | ⟨rfl, -⟩ | ⟨b, x, rfl, -⟩
    · exact kept
    all_goals simp at hi
  rcases record with ⟨rfl, rfl, rfl⟩ | ⟨unfaulted, rfl, -⟩
  · exact ⟨r, by rw [kept]⟩
  · exact absurd (hf.trans unfaulted) Bool.noConfusion

/-- Settles O22: the frame of the result commands, and any record of responses as good as another. -/
theorem resultsDoNotMutate : Obligations.ResultsDoNotMutate := by
  refine ⟨fun i s t => exec_result_frame, fun j s extra => ?_⟩
  obtain ⟨a, f, k, w, r, performed⟩ := exec_responses_ignored j s
  exact ⟨a, f, k, w, r, performed s.responses, performed (s.responses ++ extra)⟩

end Sys2Proof.Machine
end

section
/-! SUPPORT. The form of the values answered (spec/42_result.md R111, R113, R115): every command adds one
response of that form, so every step keeps it. -/

namespace Sys2Proof.Machine

/-- What `State.ResponsesFormatted` asks of one response of a block of variant `v`. -/
def Response.Formatted (v : Variant) (r : Response) : Prop :=
  ∀ x, r = .val x → (v.hbf = true → x.getLsbD 31 = true) ∧ (v.width = 32 → x.toNat < 2 ^ 32)

theorem State.responsesFormatted_iff (s : State) :
    s.ResponsesFormatted ↔ ∀ r ∈ s.responses, r.Formatted s.variant :=
  ⟨fun h _ hr x e => h x (e ▸ hr), fun h x hx => h _ hx x rfl⟩

@[simp] theorem Response.formatted_none (v : Variant) : Response.none.Formatted v := nofun

@[simp] theorem Response.formatted_err (v : Variant) : Response.err.Formatted v := nofun

theorem Response.formatted_resultValue {v : Variant} (a : BitVec v.width) :
    (Response.val (resultValue v a)).Formatted v := by
  rintro _ ⟨⟩
  exact ⟨fun forced => getLsbD_resultValue_forced a (v.hbf_eq_true_iff.1 forced),
    resultValue_lt_of_width a⟩

theorem bodyOf_response_formatted {i : Instr} {s : State} (hs : i.supported s.variant = true) :
    ∃ r, (bodyOf i s).responses = s.responses ++ [r] ∧ r.Formatted s.variant := by
  rcases bodyOf_cases i s with
    ⟨-, e⟩ | ⟨-, e⟩ | ⟨-, -, e⟩ | ⟨b, a, -, -, e⟩ | ⟨a, -, -, e⟩ | ⟨a, rfl, -, e⟩ <;> rw [e]
  case inr.inr.inr.inr.inl => exact ⟨_, rfl, Response.formatted_resultValue a⟩
  case inr.inr.inr.inr.inr =>
    rw [result32Value_eq_resultValue a (Variant.width_of_res32Ok hs)]
    exact ⟨_, rfl, Response.formatted_resultValue a⟩
  all_goals exact ⟨_, rfl, by simp⟩

/-- Every command gives one response, and that response has the form of its variant. -/
theorem exec_response_formatted {i : Instr} {s t : State} (h : exec i s = .next t) :
    ∃ r, t.responses = s.responses ++ [r] ∧ r.Formatted s.variant := by
  obtain rfl := Host.Outcome.next.inj ((exec_eq_checked i s).symm.trans h)
  rcases s.checked_cases (bodyOf i s) (i.supported s.variant) with
    ⟨-, e⟩ | ⟨-, -, e⟩ | ⟨-, supported, e⟩ <;> rw [e]
  · exact ⟨.err, rfl, Response.formatted_err s.variant⟩
  · exact ⟨.err, rfl, Response.formatted_err s.variant⟩
  · exact bodyOf_response_formatted supported

/-- So does every word. -/
theorem performCommand_response_formatted {s t : State} (h : performCommand s = .next t) :
    ∃ r, t.responses = s.responses ++ [r] ∧ r.Formatted s.variant := by
  cases d : decode s.cmd with
  | legal i => exact exec_response_formatted ((performCommand_legal s i d).symm.trans h)
  | illegal why =>
    obtain rfl := Host.Outcome.next.inj ((performCommand_illegal s why d).symm.trans h)
    refine ⟨.err, ?_, Response.formatted_err s.variant⟩
    cases hf : s.fault <;> simp [hf]

/-- Settles O40: waiting keeps the record of responses, a reset empties it, and a command adds one
response that has the form. -/
theorem stepKeepsResponsesFormatted : Obligations.StepKeepsResponsesFormatted := by
  intro s t formatted h
  rcases step_cases h with ⟨-, rfl⟩ | ⟨rest, -, rfl⟩ | ⟨c, x, rest, -, hp⟩
  · exact formatted
  · simp [State.ResponsesFormatted]
  · obtain ⟨r, responses, new⟩ := performCommand_response_formatted hp
    rw [State.responsesFormatted_iff] at formatted ⊢
    rw [responses, performCommand_variant hp]
    simp only [List.mem_append, List.mem_singleton]
    rintro q (old | rfl)
    · exact formatted q old
    · exact new

/-- Settles O21: the one response of a command has the form of its variant, so a value of MA32H has
bit 31 set, which 0 has not; elsewhere the formatter leaves a STATE of 0 alone. -/
theorem forcedResultIsNeverZero : Obligations.ForcedResultIsNeverZero := by
  refine ⟨fun i s t x forced _ h answered => ?_, fun s unforced hf ha => ?_⟩
  · obtain ⟨r, responses, form⟩ := exec_response_formatted h
    have value : r = .val x := by simpa [responses] using answered
    have bit31 : x.getLsbD 31 = true := (form x value).1 (s.variant.hbf_eq_true_iff.2 forced)
    refine ⟨?_, bit31⟩
    rintro rfl
    simp at bit31
  · rw [exec_result hf ha, resultValue_zero_of_ne_ma32h unforced]
    rfl

end Sys2Proof.Machine
end

section
/-! SUPPORT. The order of the checks (spec/60_exceptions.md R131, R132, R136): which check decides, and
what the body does to STATE and answers once a command has passed them all. -/

namespace Sys2Proof.Machine

theorem State.constructed_eq_false_iff (s : State) : s.constructed = false ↔ s.acc = none :=
  Option.isSome_eq_false_iff.trans Option.isNone_iff_eq_none

theorem State.constructed_iff_ne_none (s : State) : s.constructed = true ↔ s.acc ≠ none :=
  Option.isSome_iff_ne_none

/-- Writing STATE with the value it holds changes nothing. -/
theorem State.writeAcc_self {s : State} {a : BitVec s.variant.width} (ha : s.acc = some a) :
    s.writeAcc a = s := by
  rw [State.writeAcc, ← ha]

/-! ### The body of a command -/

/-- The body of `i` leaves `a` in STATE and answers `r` (40_construct.md R80, R82; 41_feed.md R95;
42_result.md R111, R113). -/
def BodyAnswers (i : Instr) (s : State) (a : BitVec s.variant.width) (r : Response) : Prop :=
  match i with
  | .init => a = 5381 ∧ r = .none
  | .initSalt => a = s.salt ∧ r = .none
  | .feed b => r = .none ∧ ∃ old, s.acc = some old ∧ a = combine s.variant old b
  | .result => s.acc = some a ∧ r = .val (resultValue s.variant a)
  | .result32 => s.acc = some a ∧ r = .val (result32Value s.variant a)

theorem BodyAnswers.ne_err {i : Instr} {s : State} {a : BitVec s.variant.width} {r : Response}
    (h : BodyAnswers i s a r) : r ≠ .err := by
  cases i with
  | init | initSalt | result | result32 =>
    obtain ⟨-, rfl⟩ := h
    exact Response.noConfusion
  | feed b =>
    obtain ⟨rfl, -⟩ := h
    exact Response.noConfusion

/-- A body that finds the value it needs writes STATE and answers, and does nothing else; for the
result commands what is written is the value that stood there. -/
theorem bodyOf_answers {i : Instr} {s : State} (h : i.needsAccumulator = true → s.acc ≠ none) :
    ∃ a r, BodyAnswers i s a r ∧ bodyOf i s = (s.writeAcc a).respond r := by
  rcases bodyOf_cases i s with
    ⟨rfl, e⟩ | ⟨rfl, e⟩ | ⟨reads, unset, -⟩ | ⟨b, a, rfl, ha, e⟩ | ⟨a, rfl, ha, e⟩ | ⟨a, rfl, ha, e⟩
  · exact ⟨_, .none, ⟨rfl, rfl⟩, e⟩
  · exact ⟨_, .none, ⟨rfl, rfl⟩, e⟩
  · exact absurd unset (h reads)
  · exact ⟨_, .none, ⟨rfl, a, ha, rfl⟩, e⟩
  · exact ⟨a, _, ⟨ha, rfl⟩, by rw [e, State.writeAcc_self ha]⟩
  · exact ⟨a, _, ⟨ha, rfl⟩, by rw [e, State.writeAcc_self ha]⟩

/-- A step on the word of a command that passes every check. -/
theorem step_answers {s : State} {c : CmdWord} {x : BitVec s.variant.width}
    {rest : List (HostEvent s.variant.width)} {i : Instr} (p : s.pending = .command c x :: rest)
    (d : decode c = .legal i) (hf : s.fault = false) (hs : i.supported s.variant = true)
    (h : i.needsAccumulator = true → s.acc ≠ none) :
    ∃ a r, BodyAnswers i (s.accept c x rest) a r ∧
      step s = .next (((s.accept c x rest).writeAcc a).respond r) := by
  obtain ⟨a, r, answers, body⟩ := bodyOf_answers (s := s.accept c x rest) h
  have performed : exec i (s.accept c x rest) = .next (bodyOf i (s.accept c x rest)) :=
    exec_supported hf hs
  exact ⟨a, r, answers,
    (stepRunsTheDecodedCommand s c x rest i p d).trans (performed.trans (congrArg _ body))⟩

/-- Settles O28: one law for each check that may decide, and for the command that passes them all. -/
theorem checksRunInOrder : Obligations.ChecksRunInOrder := by
  intro s c x rest p
  have performs (i : Instr) (d : decode c = .legal i) : step s = exec i (s.accept c x rest) :=
    stepRunsTheDecodedCommand s c x rest i p d
  refine ⟨step_command_faulted s p, fun hf ⟨_, d⟩ => step_illegal_unfaulted s p hf d,
    fun i hf d hs => (performs i d).trans (exec_unsupported hf hs),
    fun i hf d hs reads ha => (performs i d).trans (exec_unconstructed reads hf hs ha),
    fun i hf d hs h => ?_⟩
  obtain ⟨a, r, answers, stepped⟩ := step_answers p d hf hs h
  refine ⟨a, r, answers.ne_err, stepped, ?_, ?_, ?_, ?_, ?_⟩
  · rintro rfl
    exact answers
  · rintro rfl
    exact answers
  · rintro b rfl
    obtain ⟨none, old, ha, written⟩ := answers
    refine ⟨none, fun old' ha' => ?_⟩
    obtain rfl := Option.some.inj (ha.symm.trans ha')
    exact written
  · rintro rfl
    exact answers
  · rintro rfl
    obtain ⟨ha, value⟩ := answers
    exact ⟨ha, value.trans (congrArg _ (result32Value_eq_setWidth a))⟩

/-- Settles O33: the word of a command decodes to it, so it passes every check and its body answers. -/
theorem contractCommandsNeverFault : Obligations.ContractCommandsNeverFault := by
  intro s i x rest hf hs built p
  obtain ⟨a, r, answers, stepped⟩ := step_answers p (decode_encode i) hf hs
    fun reads => s.constructed_iff_ne_none.1 (built reads)
  exact ⟨_, r, stepped, hf, rfl, rfl, rfl, rfl, answers.ne_err⟩

/-! ### The first value of STATE -/

theorem performCommand_constructs {s t : State} (h : performCommand s = .next t)
    (hs : s.constructed = false) (ht : t.constructed = true) :
    decode s.cmd = .legal .init ∨ decode s.cmd = .legal .initSalt := by
  cases d : decode s.cmd with
  | legal i =>
    rcases exec_constructed_cases ((performCommand_legal s i d).symm.trans h) with
      kept | ⟨-, rfl | rfl⟩
    · simp [hs, ht] at kept
    · exact .inl rfl
    · exact .inr rfl
  | illegal why =>
    obtain rfl := Host.Outcome.next.inj ((performCommand_illegal s why d).symm.trans h)
    cases hf : s.fault <;> simp [hf, hs] at ht

/-- Settles O29: the readers raise NOT_CONSTRUCTED, and of the events only a construction's word gives
STATE a value. -/
theorem readsNeedAConstruction : Obligations.ReadsNeedAConstruction := by
  refine ⟨fun i s hi hs hf ha => ?_, fun _ => rfl, fun s t h hs ht => ?_⟩
  · have reads : i.needsAccumulator = true := by
      rcases hi with rfl | rfl | ⟨b, rfl⟩ <;> rfl
    exact exec_unconstructed reads hf hs ha
  · rcases step_cases h with ⟨-, rfl⟩ | ⟨rest, -, rfl⟩ | ⟨c, x, rest, p, hp⟩
    · exact absurd hs ht
    · exact absurd rfl ht
    · have construction := performCommand_constructs hp
        ((s.accept c x rest).constructed_eq_false_iff.2 hs) (t.constructed_iff_ne_none.2 ht)
      exact ⟨c, x, rest, p, construction⟩

end Sys2Proof.Machine
end

section
/-! SUPPORT. The life of a fault (spec/60_exceptions.md R133 to R135): its entry, the answers while it
lasts, and its end by reset. -/

namespace Sys2Proof.Machine

theorem Cause.ne_none_of_explains {k : Cause} {v : Variant} {constructed : Bool} {w : CmdWord}
    (h : k.explains v constructed w) : k ≠ .none := by
  rintro rfl
  exact h

/-- Settles O30: waiting keeps FAULT, a reset clears it, and a command that sets it has entered a fault
that its word explains. -/
theorem faultEntryIsPrecise : Obligations.FaultEntryIsPrecise := by
  intro s t h hs ht
  rcases step_cases h with ⟨-, rfl⟩ | ⟨rest, -, rfl⟩ | ⟨c, x, rest, p, hp⟩
  · simp [hs] at ht
  · simp at ht
  · have shown : t.status.getLsbD 1 = true := t.statusFields.word_fault.trans ht
    rcases performCommand_fault_cases hp with ⟨faulted, -⟩ | ⟨-, clear, -⟩ | ⟨-, k, explained, e⟩
    · simp [hs] at faulted
    · simp [clear] at ht
    · exact ⟨c, x, rest, k, p, Cause.ne_none_of_explains explained, e, shown⟩

/-- Settles O31: a faulted block answers ERR, and success asks for FAULT = 0. -/
theorem faultedBlockOnlyAnswersErr : Obligations.FaultedBlockOnlyAnswersErr := by
  refine ⟨fun s c x rest hf p => step_command_faulted s p hf, fun i s => exec_faulted i,
    fun s hf ⟨_, succeeded⟩ => ?_⟩
  simp [hf] at succeeded

/-- Settles O32: of the three things a step can do to FAULT only a reset clears it, and a command to a
faulted block only answers. -/
theorem onlyResetClearsAFault : Obligations.OnlyResetClearsAFault := by
  refine ⟨fun s t h hs ht => ?_, fun i s t h hs => ?_,
    fun s rest p => ⟨_, step_reset_event s rest p, rfl⟩⟩
  · rcases step_fcmd_cases h with ⟨kept, -⟩ | ⟨unfaulted, -⟩ | ⟨reset, -⟩
    · simp [kept, hs] at ht
    · simp [hs] at unfaulted
    · exact reset
  · obtain rfl := Host.Outcome.next.inj ((exec_faulted i hs).symm.trans h)
    exact hs

end Sys2Proof.Machine
end

section
/-! SUPPORT. The one response of a command (spec/10_state.md R28; spec/70_reset_and_hazards.md R159): it
is ERR exactly when the command leaves the block faulted, so a run's responses tell whether it is
faulted (R160; spec/60_exceptions.md R134). -/

namespace Sys2Proof.Machine

/-- `t` is `s` with one response more, which is ERR exactly when `t` is faulted, and always is when `s`
was; VARIANT, the ports and what is pending are those of `s`. -/
def AnsweredOnce (s t : State) : Prop :=
  ∃ (a : Option (BitVec s.variant.width)) (f : Bool) (k : Cause) (w : CmdWord) (r : Response),
    t = { s with acc := a, fault := f, cause := k, fcmd := w, responses := s.responses ++ [r] } ∧
    (f = true ↔ r = .err) ∧ (s.fault = true → r = .err)

theorem AnsweredOnce.of_respond {s : State} {r : Response} (h : s.fault = true ↔ r = .err) :
    AnsweredOnce s (s.respond r) :=
  ⟨s.acc, s.fault, s.cause, s.fcmd, r, rfl, h, h.1⟩

theorem AnsweredOnce.of_writeAcc_respond {s : State} {r : Response} (a : BitVec s.variant.width)
    (h : s.fault = true ↔ r = .err) : AnsweredOnce s ((s.writeAcc a).respond r) :=
  ⟨some a, s.fault, s.cause, s.fcmd, r, rfl, h, h.1⟩

theorem AnsweredOnce.of_raiseFault (s : State) (k : Cause) : AnsweredOnce s (s.raiseFault k) :=
  ⟨s.acc, true, k, s.cmd, .err, rfl, by simp, fun _ => rfl⟩

theorem bodyOf_answeredOnce (i : Instr) {s : State} (hf : s.fault = false) :
    AnsweredOnce s (bodyOf i s) := by
  rcases bodyOf_cases i s with
    ⟨-, e⟩ | ⟨-, e⟩ | ⟨-, -, e⟩ | ⟨b, a, -, -, e⟩ | ⟨a, -, -, e⟩ | ⟨a, -, -, e⟩ <;> rw [e]
  · exact .of_writeAcc_respond _ (by simp [hf])
  · exact .of_writeAcc_respond _ (by simp [hf])
  · exact .of_raiseFault s .notConstructed
  · exact .of_writeAcc_respond _ (by simp [hf])
  · exact .of_respond (by simp [hf])
  · exact .of_respond (by simp [hf])

/-- Every word, legal or not, is answered once. -/
theorem performCommand_answeredOnce (s : State) :
    ∃ t, performCommand s = .next t ∧ AnsweredOnce s t := by
  rcases performCommand_cases s with
    ⟨hf, e⟩ | ⟨-, -, e⟩ | ⟨i, -, -, -, e⟩ | ⟨i, hf, -, -, e⟩ <;> refine ⟨_, e, ?_⟩
  · exact .of_respond (by simp [hf])
  · exact .of_raiseFault s .illegalCommand
  · exact .of_raiseFault s .unsupportedCommand
  · exact bodyOf_answeredOnce i hf

theorem step_command_answeredOnce (s : State) {c : CmdWord} {x : BitVec s.variant.width}
    {rest : List (HostEvent s.variant.width)} (p : s.pending = .command c x :: rest) :
    ∃ t, step s = .next t ∧ AnsweredOnce (s.accept c x rest) t := by
  rw [step_command s c x rest p]
  exact performCommand_answeredOnce (s.accept c x rest)

theorem step_idle (s : State) (p : s.pending = []) : step s = .next s := by
  simp [step, p, onIdle]

/-- Settles O34: a command is answered once, a reset and waiting have their next states. -/
theorem everyCommandAnswersOnce : Obligations.EveryCommandAnswersOnce := by
  refine ⟨fun s c x rest p => ?_, fun s arbitrated => ?_⟩
  · obtain ⟨t, h, a, f, k, w, r, rfl, -⟩ := step_command_answeredOnce s p
    exact ⟨_, r, h, rfl⟩
  · cases p : s.pending with
    | nil => exact ⟨s, step_idle s p⟩
    | cons e rest =>
      cases e with
      | command c x =>
        obtain ⟨t, h, -⟩ := step_command_answeredOnce s p
        exact ⟨t, h⟩
      | reset => exact ⟨_, step_reset_event s rest p⟩
      | unarbitratedMutation => exact absurd p (arbitrated rest)

/-! ### ERR in the responses of a run -/

theorem AnsweredOnce.errExactlyWhenFaulted {s t : State} (h : AnsweredOnce s t)
    (matched_s : s.ErrExactlyWhenFaulted) : t.ErrExactlyWhenFaulted := by
  obtain ⟨a, f, k, w, r, rfl, now, stays⟩ := h
  have old : .err ∈ s.responses → r = .err := fun given => stays (matched_s.2 given)
  calc
    f = true ↔ r = .err := now
    _ ↔ .err ∈ s.responses ∨ r = .err := (or_iff_right_of_imp old).symm
    _ ↔ .err ∈ s.responses ++ [r] := by simp [eq_comm]

/-- A response other than ERR is given only where none was ERR before, so it belongs to the good ones. -/
theorem AnsweredOnce.errorsComeLast {s t : State} (h : AnsweredOnce s t)
    (matched_s : s.ErrExactlyWhenFaulted) (last : s.ErrorsComeLast) : t.ErrorsComeLast := by
  obtain ⟨a, f, k, w, r, rfl, -, stays⟩ := h
  by_cases hr : r = .err
  · obtain ⟨good, n, split, clean⟩ := last
    exact ⟨good, n + 1, by simp [split, hr, List.replicate_succ'], clean⟩
  · have clean : .err ∉ s.responses := fun given => hr (stays (matched_s.2 given))
    exact ⟨s.responses ++ [r], 0, by simp, by simp [clean, Ne.symm hr]⟩

/-- Settles O39: waiting keeps the responses, a reset empties them, and a command adds one that is ERR
exactly when it leaves the block faulted. -/
theorem stepKeepsErrExactlyWhenFaulted : Obligations.StepKeepsErrExactlyWhenFaulted := by
  intro s t matched_s last h
  rcases step_cases h with ⟨-, rfl⟩ | ⟨rest, -, rfl⟩ | ⟨c, x, rest, -, hp⟩
  · exact ⟨matched_s, last⟩
  · exact ⟨by simp [State.ErrExactlyWhenFaulted], [], 0, rfl, List.not_mem_nil⟩
  · obtain ⟨_, hp', answered⟩ := performCommand_answeredOnce (s.accept c x rest)
    obtain rfl := Host.Outcome.next.inj (hp'.symm.trans hp)
    have accepted : (s.accept c x rest).ErrExactlyWhenFaulted := matched_s
    exact ⟨answered.errExactlyWhenFaulted accepted, answered.errorsComeLast accepted last⟩

end Sys2Proof.Machine
end

section
/-! SUPPORT. Runs (spec/70_reset_and_hazards.md R160): a block to which only commands are on their way
performs them all, and its responses count them and tell whether it succeeded. Beside them, what a
reset leaves (R150) and that an idle block waits (R152). -/

namespace Sys2Proof.Machine

/-- All that is on its way to the block is commands. -/
def State.OnlyCommandsPending (s : State) : Prop := ∀ e ∈ s.pending, ∃ c x, e = .command c x

/-- One step of a run takes one command, adds one response, and keeps what the run is proved by. -/
theorem step_of_onlyCommandsPending {s : State} {n : Nat} (only : s.OnlyCommandsPending)
    (len : s.pending.length = n + 1) (matched_s : s.ErrExactlyWhenFaulted) :
    ∃ t, step s = .next t ∧ t.OnlyCommandsPending ∧ t.pending.length = n ∧
      t.responses.length = s.responses.length + 1 ∧ t.ErrExactlyWhenFaulted := by
  obtain ⟨e, rest, p⟩ := List.exists_cons_of_length_eq_add_one len
  obtain ⟨c, x, rfl⟩ := only e (by simp [p])
  obtain ⟨t, h, answered⟩ := step_command_answeredOnce s p
  have accepted : (s.accept c x rest).ErrExactlyWhenFaulted := matched_s
  have matched_t := answered.errExactlyWhenFaulted accepted
  obtain ⟨a, f, k, w, r, rfl, -⟩ := answered
  refine ⟨_, h, fun e later => only e ?_, ?_, by simp, matched_t⟩
  · rw [p]
    exact List.mem_cons_of_mem _ later
  · simpa [p] using len

theorem runSteps_of_onlyCommandsPending {s : State} {n : Nat} (only : s.OnlyCommandsPending)
    (len : s.pending.length = n) (matched_s : s.ErrExactlyWhenFaulted) :
    ∃ t, runSteps n s = .next t ∧ t.pending = [] ∧
      t.responses.length = s.responses.length + n ∧ t.ErrExactlyWhenFaulted := by
  induction n generalizing s with
  | zero => exact ⟨s, rfl, List.length_eq_zero_iff.1 len, rfl, matched_s⟩
  | succ n ih =>
    obtain ⟨u, first, only_u, len_u, count_u, matched_u⟩ :=
      step_of_onlyCommandsPending only len matched_s
    obtain ⟨t, others, done, count_t, matched_t⟩ := ih only_u len_u matched_u
    exact ⟨t, (runSteps_succ n first).trans others, done, by omega, matched_t⟩

theorem State.runSucceeded_iff_err_not_mem {t : State} (done : t.pending = [])
    (matched_t : t.ErrExactlyWhenFaulted) : t.runSucceeded ↔ Response.err ∉ t.responses :=
  calc
    t.runSucceeded ↔ t.fault = false := and_iff_right done
    _ ↔ ¬ t.fault = true := by rw [Bool.not_eq_true]
    _ ↔ Response.err ∉ t.responses := not_congr matched_t

/-- Settles O47: right after reset no response is given and the block is unfaulted, and each command
keeps ERR among the responses exactly when faulted. -/
theorem runSucceedsExactlyWithoutErr : Obligations.RunSucceedsExactlyWithoutErr := by
  intro v commands
  have only : State.OnlyCommandsPending
      { State.resetOf v with pending := commands.map fun p => .command p.1 p.2 } := by
    intro e he
    obtain ⟨p, -, rfl⟩ := List.mem_map.1 he
    exact ⟨p.1, p.2, rfl⟩
  obtain ⟨-, matched_reset, -⟩ := resetMeetsTheInvariants v
  obtain ⟨t, run, done, count, matched_t⟩ :=
    runSteps_of_onlyCommandsPending only (List.length_map _) matched_reset
  exact ⟨t, run, done, by simpa using count, State.runSucceeded_iff_err_not_mem done matched_t⟩

/-- Settles O35: the ports stay and the record of responses is emptied, which the statement leaves
open. -/
theorem resetLeavesTheResetState : Obligations.ResetLeavesTheResetState :=
  ⟨fun s rest p => ⟨s.cmd, s.salt, [], step_reset_event s rest p⟩,
    fun _ => ⟨rfl, rfl, rfl, rfl, rfl, rfl⟩⟩

/-- Settles O36: with nothing pending the step waits. -/
theorem idleBlockWaits : Obligations.IdleBlockWaits := step_idle

end Sys2Proof.Machine
end
